-- ==== Sys2Proof/Word.lean ====
section
/-! DEFINITION. The word types of the FT core: bytes, command words, length registers, and the 64-bit words in which
a value of F is kept (spec 00_scope R5, R11; 10_state R20). -/

namespace Sys2Proof

/-- One byte of the byte map (20_memory R52, R53). -/
abbrev Byte := BitVec 8

/-- A 32-bit command word, and what a host reads or writes at a register number (10_state R21 to R25, 30_encoding R70). -/
abbrev Word := BitVec 32

/-- A value of the LEN, RLEN and CAP registers (10_state R22, R24, R25), LENW bits: the width is written out so that
arithmetic sees it, and `Obligations.ParametersOfTheConfiguration` says that it is `Config.lenW`. -/
abbrev LenWord := BitVec 32

/-- A value of F in the IEEE 754 binary64 interchange format: bit 63 the sign, bits 62 to 52 the biased exponent, bits
51 to 0 the fraction (00_scope R7, R11). FW bits: the width is written out so that arithmetic sees it, and
`Obligations.ParametersOfTheConfiguration` says that it is `Config.fw`. -/
abbrev F64 := BitVec 64

end Sys2Proof
end

