-- ==== Sys2Proof/Config.lean ====
section
/-! DEFINITION. The parameters of 00_scope R5 (NUM, the numerics record, is `Machine.coreNum`) and the values the spec
leaves open. A constant declared opaque has no
value a proof could see: whatever is proved of the model holds for every value of it. -/

namespace Sys2Proof.Config

/-- The floating-point formats FMT can be; 00_scope R5 decides on one. -/
inductive Format where
  | binary64
  deriving DecidableEq, Repr

/-- Bits of one value in a format. -/
def Format.width : Format → Nat
  | .binary64 => 64

/-- FMT, the format of every sequence element and every internal real value (00_scope R5). -/
def fmt : Format := .binary64

/-- FW, the bits of one floating-point value, which follow FMT (00_scope R5); `F64` has that width. -/
def fw : Nat := fmt.width

/-- LENW, the width of the LEN, RLEN and CAP registers (00_scope R5); `LenWord` has that width. -/
def lenW : Nat := 32

/-- TOL, the tolerance of the testable properties (00_scope R5, 48_reference_functions R164). -/
def tol : ℚ := 1 / 10 ^ 9

/-- LOG2_NMAX, log2 of the buffer capacity, at its default (00_scope R5). -/
def log2Nmax : Nat := 10

/-- NMAX, the buffer capacity in elements (00_scope R5). -/
def nmax : Nat := 2 ^ log2Nmax

/-- IDXW, the width of every internal index and counter (00_scope R5, R16). -/
def idxWidth : Nat := log2Nmax + 2

/-- B = 16·NMAX, the bytes of one buffer and the unit of the byte map (20_memory R52). -/
def bufBytes : Nat := 16 * nmax

/-- BASE in units of 64·NMAX bytes, OPEN: a parameter of the platform (20_memory R52, 93 U19). -/
opaque baseUnits : Nat

/-- BASE, the byte address of the block in the platform's map, a multiple of 64·NMAX (00_scope R5, 20_memory R52). -/
def base : Nat := 64 * nmax * baseUnits

/-- The 64 bits from which the n-th free NaN takes its sign and payload (00_scope R9, 93 U16). -/
opaque nanDraw : Nat → F64

/-- What a buffer lane holds that nothing has written, by the seed in force and the lane's offset (10_state R38,
93 U10, U11, U13). -/
opaque unwrittenLane : Nat → Nat → F64

/-- What the n-th host read of DST while BUSY returns (10_state R27, 93 U12). -/
opaque busyRead : Nat → F64

/-- SIN of an argument that 00_scope R8 does not pin (93 U17). -/
opaque sinRaw : F64 → F64

/-- COS of an argument that 00_scope R8 does not pin (93 U17). -/
opaque cosRaw : F64 → F64

/-- ATAN2 of arguments that 44_spectral R151 does not pin, ordinate first (93 U17). -/
opaque atan2Raw : F64 → F64 → F64

end Sys2Proof.Config
end

