-- ==== Sys2Proof/Machine/Float64.lean ====
section
/-! DEFINITION. IEEE 754 binary64, the numbers F of 00_scope R7, on their bit patterns (R11). Each operation works out
its exact result in integers and rounds once, to nearest, ties to even. An operation whose result is a NaN takes the
NaN's bits from the free value its first argument names (R9).

A finite value is significand · 2^scale · 2^-1074 with both natural numbers. -/

namespace Sys2Proof.Machine.Float64

/-- The magnitude of infinity: exponent field 2047, fraction 0 (00_scope R11). -/
def infMag : Nat := 2047 * 2 ^ 52

/-- Bits [62:0]. -/
def mag (a : F64) : Nat := a.toNat % 2 ^ 63

/-- Bit 63. -/
def sign (a : F64) : Bool := decide (2 ^ 63 ≤ a.toNat)

def isNaN (a : F64) : Bool := decide (infMag < mag a)

def isInf (a : F64) : Bool := decide (mag a = infMag)

def isZero (a : F64) : Bool := decide (mag a = 0)

/-- Neither infinite nor a NaN. -/
def isFinite (a : F64) : Bool := decide (mag a < infMag)

/-- The word with the given sign and magnitude. -/
def ofParts (s : Bool) (m : Nat) : F64 := BitVec.ofNat 64 (m + if s then 2 ^ 63 else 0)

def zero : F64 := ofParts false 0

/-- The significand of a finite value, with its hidden bit. -/
def significand (a : F64) : Nat :=
  if mag a / 2 ^ 52 = 0 then mag a else mag a % 2 ^ 52 + 2 ^ 52

/-- The power of two that the significand counts, in units of 2^-1074. -/
def scale (a : F64) : Nat := mag a / 2 ^ 52 - 1

/-- m / 2^k to the nearest integer, ties to even. -/
def roundShift (m k : Nat) : Nat :=
  let h := m / 2 ^ k
  let r := m % 2 ^ k
  if 2 ^ k < 2 * r ∨ (2 ^ k = 2 * r ∧ h % 2 = 1) then h + 1 else h

/-- The magnitude nearest to m · 2^e · 2^-1074, ties to even: the result keeps 53 bits, fewer where it is subnormal, and
is infMag where it would pass the largest finite value. -/
def roundMag (m : Nat) (e : Int) : Nat :=
  if m = 0 then 0
  else
    let q : Nat := ((Nat.log2 m : Int) + e - 52).toNat
    let shift : Int := (q : Int) - e
    let r := if shift ≤ 0 then m * 2 ^ (-shift).toNat else roundShift m shift.toNat
    min infMag (q * 2 ^ 52 + r)

/-- The value nearest to ± m · 2^e · 2^-1074. -/
def round (s : Bool) (m : Nat) (e : Int) : F64 := ofParts s (roundMag m e)

/-- A NaN whose sign and payload come from the given bits; every NaN is one of these (00_scope R9, R11). -/
def nanOf (bits : F64) : F64 :=
  ofParts (sign bits) (infMag + if bits.toNat % 2 ^ 52 = 0 then 1 else bits.toNat % 2 ^ 52)

/-- The NaN that the d-th free value gives (93 U16). -/
def nan (d : Nat) : F64 := nanOf (Config.nanDraw d)

/-- Sign flip, exact, also of a zero, an infinity or a NaN (00_scope R7). -/
def neg (a : F64) : F64 := ofParts (!sign a) (mag a)

/-- |a|. -/
def abs (a : F64) : F64 := ofParts false (mag a)

/-- The significand with its sign. -/
def signedSignificand (a : F64) : Int := if sign a then -(significand a : Int) else significand a

/-- The exact sum of two finite values, in units of 2^(the smaller scale) · 2^-1074. -/
def exactSum (a b : F64) : Int :=
  let e := min (scale a) (scale b)
  signedSignificand a * 2 ^ (scale a - e) + signedSignificand b * 2 ^ (scale b - e)

/-- The sum of two finite values: an exact zero is +0 unless both are -0 (00_scope R10 E4, E5). -/
def addFinite (a b : F64) : F64 :=
  let s := exactSum a b
  if s = 0 then ofParts (sign a && sign b && isZero a) 0
  else round (decide (s < 0)) s.natAbs (min (scale a) (scale b) : Nat)

/-- a +. b (00_scope R7, R9). -/
def add (d : Nat) (a b : F64) : F64 :=
  if isNaN a || isNaN b then nan d
  else if isInf a then (if isInf b && sign a != sign b then nan d else a)
  else if isInf b then b
  else addFinite a b

/-- a -. b: the sum with the sign of b flipped (00_scope R7, R9). -/
def sub (d : Nat) (a b : F64) : F64 := add d a (neg b)

/-- a *. b (00_scope R7, R9). -/
def mul (d : Nat) (a b : F64) : F64 :=
  let s := sign a != sign b
  if isNaN a || isNaN b then nan d
  else if isInf a || isInf b then (if isZero a || isZero b then nan d else ofParts s infMag)
  else round s (significand a * significand b) ((scale a : Int) + scale b - 1074)

/-- The quotient m / n to at least 55 bits, and below them one bit that says whether a remainder is left. -/
def stickyQuotient (m n : Nat) : Nat := 2 * (m / n) + if m % n = 0 then 0 else 1

/-- a /. b (00_scope R7, R9). -/
def div (d : Nat) (a b : F64) : F64 :=
  let s := sign a != sign b
  if isNaN a || isNaN b then nan d
  else if isInf a then (if isInf b then nan d else ofParts s infMag)
  else if isInf b then ofParts s 0
  else if isZero b then (if isZero a then nan d else ofParts s infMag)
  else
    let k := 55 + Nat.log2 (significand b)
    round s (stickyQuotient (significand a * 2 ^ k) (significand b)) ((scale a : Int) - scale b - k - 1 + 1074)

/-- The bits of the integer square root of n from bit b - 1 down, added to r. -/
def isqrtFrom (n : Nat) : Nat → Nat → Nat
  | 0, r => r
  | b + 1, r => if (r + 2 ^ b) * (r + 2 ^ b) ≤ n then isqrtFrom n b (r + 2 ^ b) else isqrtFrom n b r

/-- The integer square root of n < 2^168. -/
def isqrt (n : Nat) : Nat := isqrtFrom n 84 0

/-- The square root of n, and below its last bit one bit that says whether a remainder is left. -/
def stickyRoot (n : Nat) : Nat := 2 * isqrt n + if isqrt n * isqrt n = n then 0 else 1

/-- fsqrt(a): fsqrt(-0) = -0, a NaN for a < 0 (00_scope R7, R9). -/
def sqrt (d : Nat) (a : F64) : F64 :=
  if isNaN a then nan d
  else if isZero a then a
  else if sign a then nan d
  else if isInf a then a
  else round false (stickyRoot (significand a * 2 ^ (scale a % 2) * 2 ^ 110)) ((scale a / 2 : Nat) - 55 - 1 + 537 : Int)

/-- fromNat(n): n, rounded where it has more than 53 bits (00_scope R7). -/
def fromNat (n : Nat) : F64 := round false n 1074

/-- PI, the value nearest to pi (00_scope R7). -/
def pi : F64 := 0x400921FB54442D18#64

/-- PI/2, PI/4, 3PI/4 as 44_spectral R151 writes them. -/
def halfPi : F64 := 0x3FF921FB54442D18#64
def quarterPi : F64 := 0x3FE921FB54442D18#64
def threeQuarterPi : F64 := 0x4002D97C7F3321D2#64

/-- Flip the sign of x where s says so. -/
def signed (s : Bool) (x : F64) : F64 := if s then neg x else x

/-- SIN on arguments whose sign bit is 0: NUM.sin0, a NaN for a NaN, else what the configuration gives. -/
def sinOfAbs (raw : F64 → F64) (a : F64) : F64 :=
  if isNaN a then nanOf (raw a) else if isZero a then zero else raw a

/-- SIN, with NUM.det, NUM.sin0 and NUM.odd (00_scope R8). -/
def sin (raw : F64 → F64) (a : F64) : F64 := signed (sign a) (sinOfAbs raw (abs a))

/-- COS, with NUM.det, NUM.cos0 and NUM.even (00_scope R8). -/
def cos (raw : F64 → F64) (a : F64) : F64 :=
  if isNaN a then nanOf (raw (abs a)) else if isZero a then fromNat 1 else raw (abs a)

/-- Keep an angle in [-PI, +PI], the range of ATAN2 (00_scope R7, 44_spectral R151): every value of the range is left as
it is, so nothing but the range is fixed. -/
def boundAngle (x : F64) : F64 := if mag x ≤ mag pi then x else zero

/-- ATAN2(y, x), y the ordinate: the special cases of 44_spectral R151, in its order, else what the configuration gives
within the range. -/
def atan2 (raw : F64 → F64 → F64) (y x : F64) : F64 :=
  if isNaN y || isNaN x then nanOf (raw y x)
  else if isZero y then (if sign x then signed (sign y) pi else signed (sign y) zero)
  else if isZero x then signed (sign y) halfPi
  else if isInf y then
    (if isInf x then (if sign x then signed (sign y) threeQuarterPi else signed (sign y) quarterPi)
     else signed (sign y) halfPi)
  else if isInf x then (if sign x then signed (sign y) pi else signed (sign y) zero)
  else boundAngle (raw y x)

end Sys2Proof.Machine.Float64
end

