-- ==== Sys2Proof/Syntax.lean ====
section
/-! DEFINITION. The commands of the FT core (30_encoding R72), the fields of a command word (R70, R71), and what the
outside world can do to the core: the host transactions of 20_memory R51 and R54, reset (70 R190), and the events that
put them in one total order with the sequencer's turns (20_memory R59). -/

namespace Sys2Proof

/-- The five commands, one constructor for each row of spec/opcode_table.json. None has an operand: the length is in
LEN, the data in SRC (30_encoding R70, R73). -/
inductive Instr where
  /-- FFT.FWD, 42_fft R114. -/
  | fftFwd
  /-- FFT.INV, 42_fft R115. -/
  | fftInv
  /-- FHT, 43_hartley R136. -/
  | fht
  /-- MAG, 44_spectral R152. -/
  | mag
  /-- PHASE, 44_spectral R153. -/
  | phase
  deriving DecidableEq, Repr

/-- The fields of format C, bits [31:5], [4] and [3:0] of a command word (30_encoding R70, R71). -/
structure Fields where
  rsv : BitVec 27
  dir : BitVec 1
  op  : BitVec 4
  deriving DecidableEq, Repr

/-- The document's Direction (00_scope R15): DIR = 0 is FORWARD, DIR = 1 is INVERSE. -/
inductive Direction where
  | forward
  | inverse
  deriving DecidableEq, Repr

/-- The numeric value d of a direction, +1 or -1 (00_scope R15). -/
def Direction.d : Direction → Int
  | .forward => 1
  | .inverse => -1

/-- The two lanes of an element of a buffer (10_state R26). -/
inductive Lane where
  | re
  | im
  deriving DecidableEq, Repr

/-- The two buffers the host can address (20_memory R50). -/
inductive Space where
  | src
  | dst
  deriving DecidableEq, Repr

/-- A transaction at the host port: the four element-level ones of 20_memory R51, and the accesses of the byte wrapper
(R54), whose width in bytes and byte address are whatever the bus presents. -/
inductive HostTx where
  | writeReg (r : Nat) (v : Word)
  | readReg (r : Nat)
  | writeBuf (k : Nat) (lane : Lane) (x : F64)
  | readBuf (sp : Space) (k : Nat) (lane : Lane)
  | busWrite (width addr : Nat) (v : BitVec 64)
  | busRead (width addr : Nat)
  deriving DecidableEq, Repr

/-- What happens next: one entry of the total order of 20_memory R59. -/
inductive Event where
  /-- The host makes one transaction. -/
  | host (t : HostTx)
  /-- The sequencer makes one micro-operation (none when it is idle). -/
  | turn
  /-- The host writes the word w to CMD and lets the command run to its end before anything else happens: the whole
  command as the one step that 10_state R35 allows. -/
  | command (w : Word)
  /-- A clock edge with rst = 1; a host transaction presented in the same cycle has no effect (70 R190). -/
  | reset (presented : Option HostTx)
  deriving DecidableEq, Repr

end Sys2Proof
end

