-- ==== Sys2Proof/Machine/State.lean ====
section
/-! DEFINITION. The complete state of one FT core (10_state R20), as plain data, and its value after reset (R40). -/

namespace Sys2Proof.Machine

/-- Memory: the bytes of the SRC and DST windows that hold a value, as (offset from BASE, byte) cells in rising order
(20_memory R52). An unlisted byte has no value. -/
abbrev Memory := List Host.Cell

/-- STATUS.STATE, bits [1:0] (10_state R23). -/
inductive CoreState where
  | idle
  | busy
  | done
  | error
  deriving DecidableEq, Repr

/-- The error kinds, the values of STATUS.ERR (60_exceptions R170). -/
inductive ErrorKind where
  | none
  | invalidShape
  | invalidLength
  | typeMismatch
  | resourceExhausted
  | illegalCommand
  deriving DecidableEq, Repr

/-- STATUS by its fields; the reserved bits are 0 and no field holds them (10_state R23). -/
structure Status where
  state : CoreState
  err   : ErrorKind
  opl   : BitVec 4
  dirl  : BitVec 1
  deriving DecidableEq, Repr

/-- The registers of the units over a number type F: TwiddleState (10_state R28), the stage scalars (R29), the Hartley
tables (R30), the ladder scalars (R31), the loop counters (R33). Integers of IDXW bits are natural numbers: no rule
lets one reach 2^IDXW (00_scope R16). -/
structure Regs (F : Type) where
  twRe  : F
  twIm  : F
  mulRe : F
  mulIm : F
  sStep : Nat
  jump  : Nat
  piD   : F
  delta : F
  sine  : F
  htC   : List F
  htS   : List F
  level : Nat
  scale : Nat
  rootN : F
  g : Nat
  p : Nat
  i : Nat
  j : Nat
  k : Nat
  deriving DecidableEq, Repr

/-- Where a butterfly stage is (10_state R35). -/
inductive StagePhase where
  | setup
  | pair
  | advance
  deriving DecidableEq, Repr

/-- The sequencer position SEQ (10_state R35). -/
inductive Seq where
  | idle
  | validate
  | copyIn (k : Nat)
  | bitRev (i : Nat)
  | fftStage (s g p : Nat) (phase : StagePhase)
  | scaleN (k : Nat)
  | htTable (k : Nat)
  | htRot (level g i j : Nat)
  | htAddSub (level g i : Nat)
  | htNorm (k : Nat)
  | elementwise (k : Nat)
  | complete
  deriving DecidableEq, Repr

/-- The port's answer to the latest host transaction: nothing since reset, a write taken (or ignored), the value of a
register or of a lane (20_memory R51), the doubleword of a wrapper read, a bus error (R52, R54). -/
inductive Response where
  | nothing
  | written
  | reg (v : Word)
  | lane (x : F64)
  | bus (v : BitVec 64)
  | busError
  deriving DecidableEq, Repr

/-- The state of one FT core (10_state R20), one field or group for each row of its table, and after `seq` the model's
own: the index of the next free value, the seeds of the unwritten lanes of SRC and DST, the events still to come, the
port's latest answer. CAP is hardwired and busy, done are functions of STATUS (R25, R39), so they are no fields; the
ghost bits WR_RE, WR_IM are read off `mem` (R38). -/
structure State where
  cmd     : Option Word
  len     : LenWord
  status  : Status
  rlen    : LenWord
  mem     : Memory
  regs    : Regs F64
  opAct   : BitVec 4
  dAct    : Direction
  nAct    : LenWord
  seq     : Seq
  draw    : Nat
  srcSeed : Nat
  dstSeed : Nat
  events  : List Event
  resp    : Response
  deriving DecidableEq, Repr

/-- Why the machine would stop with a fault. There is no such reason: the spec has no behaviour it calls undefined (93,
end of part 1c), a refused command is a next state (60_exceptions R178), a bus error is an answer to the bus (20_memory
R54). -/
inductive Fault where
  deriving DecidableEq, Repr

/-- Why a step has no meaning. -/
inductive Refusal where
  /-- Raised by an arm of `exec` whose instruction has no meaning in the model; no arm raises it. Safe. -/
  | notModelled (mnemonic : String)
  deriving DecidableEq, Repr

/-- STATUS after reset, 0x00000000 (10_state R23, R40). -/
def Status.reset : Status := ⟨.idle, .none, 0, 0⟩

/-- The units' registers after reset. The spec leaves them unspecified and unobservable (10_state R40, 93 U14): DESIGN
CHOICE, +0 and 0 (log 7). -/
def Regs.reset : Regs F64 where
  twRe := 0
  twIm := 0
  mulRe := 0
  mulIm := 0
  sStep := 0
  jump := 0
  piD := 0
  delta := 0
  sine := 0
  htC := List.replicate (Config.nmax / 2) 0
  htS := List.replicate (Config.nmax / 2) 0
  level := 0
  scale := 0
  rootN := 0
  g := 0
  p := 0
  i := 0
  j := 0
  k := 0

/-- The machine right after reset (10_state R40, 70 R190): STATUS, LEN, RLEN 0, CMD holding nothing, SEQ Idle, nothing
written in SRC or DST. OP_ACT, D_ACT, N_ACT are unspecified: DESIGN CHOICE 0, FORWARD, 0 (log 7). The model's own fields
start at 0 and empty (logs 2, 5, 6, 10, 17). -/
def State.reset : State where
  cmd := none
  len := 0
  status := Status.reset
  rlen := 0
  mem := []
  regs := Regs.reset
  opAct := 0
  dAct := .forward
  nAct := 0
  seq := .idle
  draw := 0
  srcSeed := 0
  dstSeed := 0
  events := []
  resp := .nothing

end Sys2Proof.Machine
end

