-- ==== Sys2Proof/Machine/Memory.lean ====
section
/-! DEFINITION. The storage of the SRC and DST buffers, byte by byte in the byte map of 20_memory R52, and whole lanes
over it, little-endian (R53). An unlisted byte has no value. -/

namespace Sys2Proof.Machine.Memory

/-- The byte at an offset, if it holds a value. -/
def readByte : Memory → Nat → Option Byte
  | [], _ => none
  | (b, v) :: m, a => if b = a then some v else readByte m a

/-- Store a byte, keeping the cells in rising order of offset. -/
def writeByte : Memory → Nat → Byte → Memory
  | [], a, v => [(a, v)]
  | (b, w) :: m, a, v =>
    if a < b then (a, v) :: (b, w) :: m
    else if a = b then (a, v) :: m
    else (b, w) :: writeByte m a v

/-- The n bytes from an offset as a number, the lowest address least significant (20_memory R53). -/
def readBytes (m : Memory) : Nat → Nat → Option Nat
  | _, 0 => some 0
  | a, n + 1 =>
    match readByte m a, readBytes m (a + 1) n with
    | some b, some r => some (b.toNat + 256 * r)
    | _, _ => none

/-- Store the n low bytes of a number from an offset, the lowest address least significant (20_memory R53). -/
def writeBytes : Memory → Nat → Nat → Nat → Memory
  | m, _, 0, _ => m
  | m, a, n + 1, v => writeBytes (writeByte m a (BitVec.ofNat 8 v)) (a + 1) n (v / 256)

/-- The value of the lane at an offset, if all its bytes hold one. -/
def readLane (m : Memory) (a : Nat) : Option F64 := (readBytes m a 8).map (BitVec.ofNat 64)

/-- Store a value in the lane at an offset. -/
def writeLane (m : Memory) (a : Nat) (x : F64) : Memory := writeBytes m a 8 x.toNat

/-- The offset of SRC[0] or DST[0] (20_memory R52). -/
def window : Space → Nat
  | .src => Config.bufBytes
  | .dst => 2 * Config.bufBytes

/-- The offset of a lane in its element: the real lane first (20_memory R52). -/
def laneOffset : Lane → Nat
  | .re => 0
  | .im => 8

/-- The offset from BASE of a lane of element k (20_memory R52). -/
def offset (sp : Space) (k : Nat) (l : Lane) : Nat := window sp + 16 * k + laneOffset l

/-- Whether an offset lies in the window of a buffer (20_memory R52). -/
def inWindow (sp : Space) (a : Nat) : Bool := decide (window sp ≤ a ∧ a < window sp + Config.bufBytes)

/-- Forget what DST holds: every lane of it is unspecified from here on (10_state R27, R38). -/
def dropDst (m : Memory) : Memory := m.filter fun c => !inWindow .dst c.1

/-- The canonical form: offsets strictly rising. An unlisted byte has no value, so no entry repeats one. -/
abbrev wf (m : Memory) : Prop := m.Pairwise fun c d => c.1 < d.1

end Sys2Proof.Machine.Memory
end

