-- ==== Sys2Proof/Machine/Operands.lean ====
section
/-! DEFINITION. What the procedures of the units work on: the numerics record NUM (00_scope R7), the memory primitives
MemRead and MemWrite (20_memory R62), the working data of a command, the loops of the pseudocode (00_scope R14), and the
index map of the bit reversal (40 R90). All of it is over any type F of numbers and any type M of memories, so that the
same procedures run on binary64 and in exact arithmetic (42 R117, 43 R137). -/

namespace Sys2Proof.Machine

/-- The numerics record NUM (00_scope R7). The first argument of a rounded operation is the index of the free value from
which a NaN result takes its bits (R9). -/
structure Num (F : Type) where
  zero    : F
  add     : Nat → F → F → F
  sub     : Nat → F → F → F
  mul     : Nat → F → F → F
  div     : Nat → F → F → F
  neg     : F → F
  fsqrt   : Nat → F → F
  fromNat : Nat → F
  pi      : F
  sin     : F → F
  cos     : F → F
  atan2   : F → F → F

/-- NUM at binary64, over the three configuration functions (00_scope R7, R8). -/
def Float64.num (sinRaw cosRaw : F64 → F64) (atan2Raw : F64 → F64 → F64) : Num F64 where
  zero := Float64.zero
  add := Float64.add
  sub := Float64.sub
  mul := Float64.mul
  div := Float64.div
  neg := Float64.neg
  fsqrt := Float64.sqrt
  fromNat := Float64.fromNat
  pi := Float64.pi
  sin := Float64.sin sinRaw
  cos := Float64.cos cosRaw
  atan2 := Float64.atan2 atan2Raw

/-- NUM of the core: binary64 with SIN, COS, ATAN2 left open (00_scope R5, R8). -/
def coreNum : Num F64 := Float64.num Config.sinRaw Config.cosRaw Config.atan2Raw

/-- What a procedure runs over: NUM, MemRead(SRC, k, lane), MemRead(DST, k, lane) and MemWrite(DST, k, lane, v)
(20_memory R62). There is no MemWrite(SRC, …). -/
structure Env (M F : Type) where
  num : Num F
  src : M → Nat → Lane → F
  dst : M → Nat → Lane → F
  put : M → Nat → Lane → F → M

/-- The value of a lane of a buffer: what it holds, or the free value of an unwritten lane (10_state R38). -/
def laneValue (seed : Nat) (m : Memory) (sp : Space) (k : Nat) (l : Lane) : F64 :=
  (m.readLane (Memory.offset sp k l)).getD (Config.unwrittenLane seed (Memory.offset sp k l))

/-- The environment over the buffers of a core whose unwritten lanes have the given seeds. -/
def bufferEnv (num : Num F64) (srcSeed dstSeed : Nat) : Env Memory F64 where
  num := num
  src m k l := laneValue srcSeed m .src k l
  dst m k l := laneValue dstSeed m .dst k l
  put m k l x := m.writeLane (Memory.offset .dst k l) x

/-- A procedure's environment over a sequence held as a function of the index, its input beside it: the procedures on bare
sequences (00_scope R13), for statements and tests that need no core around them. -/
def sequenceEnv {F : Type} (num : Num F) (x : Nat → F × F) : Env (Nat → F × F) F where
  num := num
  src _ k l := match l with
    | .re => (x k).1
    | .im => (x k).2
  dst m k l := match l with
    | .re => (m k).1
    | .im => (m k).2
  put m k l v := fun i =>
    if i = k then (match l with
      | .re => (v, (m k).2)
      | .im => ((m k).1, v))
    else m i

/-- What a procedure changes: the memory, the units' registers, the index of the next free value. -/
structure Work (M F : Type) where
  mem  : M
  regs : Regs F
  draw : Nat

/-- MemWrite of both lanes of DST[k], the real one first. -/
def Work.put {M F : Type} (e : Env M F) (k : Nat) (re im : F) (w : Work M F) : Work M F :=
  { w with mem := e.put (e.put w.mem k .re re) k .im im }

/-- MemWrite of the real lane of DST[k]. -/
def Work.putRe {M F : Type} (e : Env M F) (k : Nat) (re : F) (w : Work M F) : Work M F :=
  { w with mem := e.put w.mem k .re re }

/-- Use up n free values. -/
def Work.spend {M F : Type} (n : Nat) (w : Work M F) : Work M F := { w with draw := w.draw + n }

/-- `count` iterations of a body at i, i + stride, i + 2·stride, … : the for and while loops of the pseudocode, with the
number of their iterations (00_scope R14). -/
def forStride {W : Type} (stride : Nat) (body : Nat → W → W) : Nat → Nat → W → W
  | 0, _, w => w
  | count + 1, i, w => forStride stride body count (i + stride) (body i w)

/-- rev_m(i): the m lowest binary digits of i in reverse order, by the recursive form of 40_bit_reverse R90. -/
def rev : Nat → Nat → Nat
  | 0, _ => 0
  | m + 1, i => (i % 2) * 2 ^ m + rev m (i / 2)

/-- ispow2(n): n is not 0 and n AND (n - 1) is 0 (00_scope R12). -/
def ispow2 (n : Nat) : Bool := n != 0 && (n &&& (n - 1)) == 0

/-- The direction of a DIR bit (30_encoding R73). -/
def directionOf (dir : BitVec 1) : Direction := if dir = 0 then .forward else .inverse

end Sys2Proof.Machine
end

