-- ==== Sys2Proof/Machine/BitReverse.lean ====
section
/-! DEFINITION. Unit BRP: the copy from SRC to DST and the bit-reversal permutation (40_bit_reverse R90 to R92). -/

namespace Sys2Proof.Machine

variable {M F : Type}

/-- One element of BRP.COPYIN: DST[k] <- SRC[k], the imaginary lane +0 for a RealSequence (40 R92). -/
def copyElem (e : Env M F) (real : Bool) (k : Nat) (w : Work M F) : Work M F :=
  let re := e.src w.mem k .re
  let im := if real then e.num.zero else e.src w.mem k .im
  { w.put e k re im with regs := { w.regs with k := k } }

/-- BRP.COPYIN(N, real) (40 R92). -/
def copyIn (e : Env M F) (real : Bool) (n : Nat) (w : Work M F) : Work M F := forStride 1 (copyElem e real) n 0 w

/-- BRP.SWAP(i, j): all four lanes are read before one is written (40 R92). -/
def swap (e : Env M F) (i j : Nat) (w : Work M F) : Work M F :=
  let iRe := e.dst w.mem i .re
  let iIm := e.dst w.mem i .im
  let jRe := e.dst w.mem j .re
  let jIm := e.dst w.mem j .im
  (w.put e i jRe jIm).put e j iRe iIm

/-- One visit of BRP.PERMUTE: swap i and rev_m(i) when i < rev_m(i), so that each pair is swapped once (40 R92). -/
def revVisit (e : Env M F) (m i : Nat) (w : Work M F) : Work M F :=
  let j := rev m i
  let w := if i < j then swap e i j w else w
  { w with regs := { w.regs with i := i, j := j } }

/-- BRP.PERMUTE(N), N = 2^m (40 R92). -/
def permute (e : Env M F) (n : Nat) (w : Work M F) : Work M F := forStride 1 (revVisit e (Nat.log2 n)) n 0 w

end Sys2Proof.Machine
end

