-- ==== Sys2Proof/WellFormed.lean ====
section
/-! DEFINITION. Which fields of a command word are legal (30_encoding R71, R74). -/

namespace Sys2Proof

/-- RSV = 0 (30_encoding R71). -/
def Fields.reservedZero (f : Fields) : Bool := f.rsv == 0

/-- OP is one of 1, 2, 3, 4 (30_encoding R71). -/
def Fields.opLegal (f : Fields) : Bool := f.op == 1 || f.op == 2 || f.op == 3 || f.op == 4

/-- DIR is 0 or 1 when OP = 1 and 0 otherwise (30_encoding R71). -/
def Fields.dirLegal (f : Fields) : Bool := f.op == 1 || f.dir == 0

/-- The fields of a legal command word, the complement of 30_encoding R74. -/
def Fields.wellFormed (f : Fields) : Bool := f.reservedZero && f.opLegal && f.dirLegal

/-- The fields of each command, from the table of 30_encoding R72. -/
def Instr.fields : Instr → Fields
  | .fftFwd => ⟨0, 0, 1⟩
  | .fftInv => ⟨0, 1, 1⟩
  | .fht    => ⟨0, 0, 2⟩
  | .mag    => ⟨0, 0, 3⟩
  | .phase  => ⟨0, 0, 4⟩

/-- A command is well formed when its fields are legal. Every command is: none has an operand. -/
def Instr.wellFormed (i : Instr) : Bool := i.fields.wellFormed

end Sys2Proof
end

