-- ==== Sys2Proof/Decode.lean ====
section
/-! DEFINITION. Decoding a command word (30_encoding R71 to R75) and, after it, encoding a command (R70, R72). -/

namespace Sys2Proof

/-- Why a word is illegal (30_encoding R74). -/
inductive Illegal where
  /-- w[31:5] is not 0. -/
  | reservedBits
  /-- w[3:0] = 0. -/
  | opZero
  /-- w[3:0] >= 5. -/
  | opUnassigned
  /-- w[4] = 1 with w[3:0] other than 1. -/
  | dirNotAllowed
  deriving DecidableEq, Repr

/-- What a word decodes to: a command, or Illegal with its reason. -/
inductive Decoded where
  | ok (i : Instr)
  | illegal (r : Illegal)
  deriving DecidableEq, Repr

/-- The command of a decoding, if it is one. -/
def Decoded.toOption : Decoded → Option Instr
  | .ok i => some i
  | .illegal _ => none

/-- The fields of a word: w[31:5], w[4], w[3:0] (30_encoding R70). -/
def fieldsOf (w : Word) : Fields := ⟨w.extractLsb' 5 27, w.extractLsb' 4 1, w.extractLsb' 0 4⟩

/-- The decode function of 30_encoding R75, case for case, on the fields of the word. -/
def decodeFields (f : Fields) : Decoded :=
  if f.rsv ≠ 0 then .illegal .reservedBits
  else if f.op = 1 then (if f.dir = 0 then .ok .fftFwd else .ok .fftInv)
  else if f.dir = 1 then .illegal .dirNotAllowed
  else if f.op = 2 then .ok .fht
  else if f.op = 3 then .ok .mag
  else if f.op = 4 then .ok .phase
  else if f.op = 0 then .illegal .opZero
  else .illegal .opUnassigned

/-- Decoding is total on 32-bit words (30_encoding R75). -/
def decode (w : Word) : Decoded := decodeFields (fieldsOf w)

/-- The 64-bit word of eight bytes, the byte at the lowest address first (20_memory R53). -/
def wordOfBytes : List Byte → Option (BitVec 64)
  | [b0, b1, b2, b3, b4, b5, b6, b7] => some (b7 ++ b6 ++ b5 ++ b4 ++ b3 ++ b2 ++ b1 ++ b0)
  | _ => none

/-- The command in the bytes of the 8-byte slot of CMD: bits [31:0] of the doubleword, bits [63:32] ignored (20_memory
R52). Any other number of bytes is no access the wrapper accepts (R54). -/
def decodeSlot (bytes : List Byte) : Option Decoded :=
  (wordOfBytes bytes).map fun v => decode (v.extractLsb' 0 32)

/-- A word from its fields, {RSV, DIR, OP} (30_encoding R70). -/
def wordOf (f : Fields) : Word := f.rsv ++ f.dir ++ f.op

/-- The word of a command (30_encoding R72). -/
def encode (i : Instr) : Word := wordOf i.fields

/-- The command word whose bits spec/opcode_table.json numbers as w's lowest nbits, every bit above them 0. -/
def tableWord (nbits w : Nat) : Word := BitVec.ofNat 32 (w % 2 ^ nbits)

/-- The decoder on a word numbered as spec/opcode_table.json numbers it. A command has exactly 32 bits (30_encoding
R76): more are no command. -/
def decodeTableWord (nbits w : Nat) : Option Instr :=
  if nbits ≤ 32 then (decode (tableWord nbits w)).toOption else none

end Sys2Proof
end

