-- ==== Sys2Proof/Machine/Flags.lean ====
section
/-! DEFINITION. STATUS as the word the host reads (10_state R23), the error codes (60_exceptions R170), and the outputs
busy and done (10_state R39). The core has no condition codes and no floating-point flags (10_state R34). -/

namespace Sys2Proof.Machine

/-- The code of a state in STATUS[1:0] (10_state R23). -/
def CoreState.code : CoreState → BitVec 2
  | .idle  => 0
  | .busy  => 1
  | .done  => 2
  | .error => 3

/-- The code of an error kind in STATUS[6:4] (60_exceptions R170). -/
def ErrorKind.code : ErrorKind → BitVec 3
  | .none              => 0
  | .invalidShape      => 1
  | .invalidLength     => 2
  | .typeMismatch      => 3
  | .resourceExhausted => 4
  | .illegalCommand    => 5

/-- STATUS as a word: DIRL at bit 12, OPL at [11:8], ERR at [6:4], STATE at [1:0], every other bit 0 (10_state R23). -/
def Status.word (s : Status) : Word :=
  (0 : BitVec 19) ++ s.dirl ++ s.opl ++ (0 : BitVec 1) ++ s.err.code ++ (0 : BitVec 2) ++ s.state.code

/-- The output busy (10_state R39). -/
def State.busy (s : State) : Bool := s.status.state == .busy

/-- The output done (10_state R39). -/
def State.done (s : State) : Bool := s.status.state == .done || s.status.state == .error

end Sys2Proof.Machine
end

