-- ==== Sys2Proof/Machine/Ops.lean ====
section
/-! DEFINITION. The shared operations over the state: reading registers and lanes, the acceptance, validation, refusal
and completion of a command (30_encoding R80 to R82, 60_exceptions R170 to R179), and the shape all commands share. -/

namespace Sys2Proof.Machine

/-- CAP, hardwired to NMAX (10_state R25). -/
def State.cap (_ : State) : LenWord := BitVec.ofNat Config.lenW Config.nmax

/-- The ghost bits WR_RE[k], WR_IM[k]: the lane of SRC has been written since reset (10_state R38). -/
def State.written (s : State) (k : Nat) (l : Lane) : Bool := (s.mem.readLane (Memory.offset .src k l)).isSome

/-- What SRC[k].lane reads as (10_state R26, R38). -/
def State.src (s : State) (k : Nat) (l : Lane) : F64 := laneValue s.srcSeed s.mem .src k l

/-- What DST[k].lane reads as while the core is not BUSY (10_state R27, R38). -/
def State.dst (s : State) (k : Nat) (l : Lane) : F64 := laneValue s.dstSeed s.mem .dst k l

/-- Whether DST[k].lane holds a value the spec gives (10_state R38). -/
def State.specified (s : State) (k : Nat) (l : Lane) : Bool := (s.mem.readLane (Memory.offset .dst k l)).isSome

/-- The environment the procedures of a core run over. -/
def State.env (s : State) : Env Memory F64 := bufferEnv coreNum s.srcSeed s.dstSeed

/-- The part of the state that procedures work on. -/
def State.work (s : State) : Work Memory F64 := ⟨s.mem, s.regs, s.draw⟩

/-- The state with that part replaced. -/
def State.withWork (s : State) (w : Work Memory F64) : State := { s with mem := w.mem, regs := w.regs, draw := w.draw }

/-- seq <- q (00_scope R14). -/
def State.goto (s : State) (q : Seq) : State := { s with seq := q }

/-- Acceptance of a word, one atomic step (30_encoding R80). CMD holds the word from here until the command leaves BUSY:
validation decodes all of it (R81, log 9). -/
def State.accept (w : Word) (s : State) : State :=
  { s with
    cmd    := some w
    status := ⟨.busy, .none, w.extractLsb' 0 4, w.extractLsb' 4 1⟩
    rlen   := 0
    opAct  := w.extractLsb' 0 4
    dAct   := directionOf (w.extractLsb' 4 1)
    nAct   := s.len
    seq    := .validate }

/-- Refusal of the command in flight, `raise kind`: the core's analogue of taking an exception, one atomic step
(60_exceptions R178). OPL, DIRL, LEN, RLEN (0 since acceptance) stay; nothing else changes. -/
def State.refuse (k : ErrorKind) (s : State) : State :=
  { s with cmd := none, status := { s.status with err := k, state := .error }, seq := .idle }

/-- Completion of the command in flight, one atomic step (30_encoding R82). There is no return from a refusal either: the
next acceptance overwrites STATUS (60_exceptions R179). DESIGN CHOICE (log 21): every transient register keeps its value,
HT_C, HT_S, ROOTN, the TwiddleState, the stage and ladder scalars, the counters and the latched operands; 43_hartley R130
drops the table here and 93 U14 allows any value from here on. -/
def State.complete (s : State) : State :=
  { s with cmd := none, rlen := s.nAct, status := { s.status with state := .done }, seq := .idle }

/-- The start of a procedure, once validation has passed: from here on what DST held is unspecified, and not what it was
(10_state R27, R38). -/
def State.begin (s : State) : State :=
  { s with mem := s.mem.dropDst, dstSeed := s.draw + 1, draw := s.draw + 1 }

/-- The length tests of a command, before the capacity test (30_encoding R81, 60_exceptions R171). -/
def lengthInvalid (i : Instr) (n : Nat) : Bool :=
  match i with
  | .fftFwd => decide (n < 2) || !ispow2 n
  | .fftInv => decide (n < 2) || !ispow2 n
  | .fht    => n % 2 != 0 || !ispow2 n
  | .mag    => false
  | .phase  => false

/-- Validation of a legal command: InvalidLength before ResourceExhausted (30_encoding R81, 60_exceptions R171, R172,
R176). -/
def validateLength (i : Instr) (n : Nat) : Option ErrorKind :=
  if lengthInvalid i n then some .invalidLength
  else if Config.nmax < n then some .resourceExhausted
  else none

/-- Validation of an accepted word: IllegalCommand first, whatever the length (30_encoding R81, 60_exceptions R173,
R176). -/
def validate (d : Decoded) (n : Nat) : Option ErrorKind :=
  match d with
  | .illegal _ => some .illegalCommand
  | .ok i      => validateLength i n

/-- A procedure of the units: what it does to the working data, given the environment and N. -/
abbrev Procedure := Env Memory F64 → Nat → Work Memory F64 → Work Memory F64

/-- Run a procedure on N_ACT elements. -/
def State.perform (proc : Procedure) (s : State) : State := s.withWork (proc s.env s.nAct.toNat s.work)

/-- The outcome of an accepted command: its refusal, or its procedure and completion. -/
def State.conclude (i : Instr) (proc : Procedure) (s : State) : State :=
  match validateLength i s.nAct.toNat with
  | some k => s.refuse k
  | none   => (s.begin.perform proc).complete

/-- A command from its issue to its end, in the one step that 10_state R35 allows: ignored while BUSY (10_state R21),
else accepted, validated, and refused or performed and completed. -/
def runCommand (i : Instr) (proc : Procedure) (s : State) : Host.Outcome State Fault Refusal :=
  .next (if s.busy then s else (s.accept (encode i)).conclude i proc)

/-- An illegal word from its issue to its refusal (30_encoding R74, 60_exceptions R173). -/
def runIllegal (w : Word) (s : State) : Host.Outcome State Fault Refusal :=
  .next (if s.busy then s else (s.accept w).refuse .illegalCommand)

end Sys2Proof.Machine
end

