-- ==== Sys2Proof/Machine/Twiddle.lean ====
section
/-! DEFINITION. Unit TWG: the twiddle recurrence generator (41_twiddle R100 to R103). -/

namespace Sys2Proof.Machine

variable {M F : Type}

/-- The base angle PI_D = d · (−PI), one rounded multiplication (41 R100). -/
def baseAngle (num : Num F) (d : Nat) (dir : Direction) : F :=
  let one := match dir with
    | .forward => num.fromNat 1
    | .inverse => num.neg (num.fromNat 1)
  num.mul d one (num.neg num.pi)

/-- TW.SETUP(d, s), with JUMP and S_STEP of the stage (41 R100, 10_state R29). S_STEP is s already: the loop that
executes TW.SETUP has put it there (42 R112). That both are written here is log 18. -/
def twSetup (num : Num F) (dir : Direction) (s : Nat) (w : Work M F) : Work M F :=
  let d := w.draw
  let piD := baseAngle num d dir
  let delta := num.div (d + 1) piD (num.fromNat s)
  let sine := num.sin (num.div (d + 2) delta (num.fromNat 2))
  let mulRe := num.neg (num.mul (d + 4) (num.fromNat 2) (num.mul (d + 3) sine sine))
  let mulIm := num.sin delta
  { w with
    regs := { w.regs with sStep := s, jump := 2 * s, piD := piD, delta := delta, sine := sine, mulRe := mulRe,
                          mulIm := mulIm }
    draw := d + 5 }

/-- TW.INIT(): the rotation factor starts at (1, +0) (41 R101). -/
def twInit (num : Num F) (w : Work M F) : Work M F :=
  { w with regs := { w.regs with twRe := num.fromNat 1, twIm := num.zero } }

/-- TW.ADV(): both components from the factor before the micro-operation (41 R102). -/
def twAdv (num : Num F) (w : Work M F) : Work M F :=
  let d := w.draw
  let r := w.regs
  let re := num.add (d + 3) (num.sub (d + 2) (num.mul d r.mulRe r.twRe) (num.mul (d + 1) r.mulIm r.twIm)) r.twRe
  let im := num.add (d + 7) (num.add (d + 6) (num.mul (d + 4) r.mulIm r.twRe) (num.mul (d + 5) r.mulRe r.twIm)) r.twIm
  { w with regs := { r with twRe := re, twIm := im }, draw := d + 8 }

/-- W(d, s, g): the working data after TW.SETUP(d, s), TW.INIT() and g executions of TW.ADV() (41 R103). -/
def factorAfter (num : Num F) (dir : Direction) (s g : Nat) (w : Work M F) : Work M F :=
  forStride 1 (fun _ => twAdv num) g 0 (twInit num (twSetup num dir s w))

end Sys2Proof.Machine
end

