-- ==== Sys2Proof/Machine/Fft.lean ====
section
/-! DEFINITION. Unit BFU: the radix-2 butterfly, the stages, the inverse scaling, and the commands FFT.FWD and FFT.INV
(42_fft R110 to R116). -/

namespace Sys2Proof.Machine

variable {M F : Type}

/-- BFLY(p, q): four reads, then the product, then the difference to q and the sum to p; ten rounded operations (42
R110). -/
def bfly (e : Env M F) (p q : Nat) (w : Work M F) : Work M F :=
  let n := e.num
  let d := w.draw
  let wRe := w.regs.twRe
  let wIm := w.regs.twIm
  let aRe := e.dst w.mem p .re
  let aIm := e.dst w.mem p .im
  let bRe := e.dst w.mem q .re
  let bIm := e.dst w.mem q .im
  let prRe := n.sub (d + 2) (n.mul d wRe bRe) (n.mul (d + 1) wIm bIm)
  let prIm := n.add (d + 5) (n.mul (d + 3) wRe bIm) (n.mul (d + 4) wIm bRe)
  let w := w.put e q (n.sub (d + 6) aRe prRe) (n.sub (d + 7) aIm prIm)
  (w.put e p (n.add (d + 8) aRe prRe) (n.add (d + 9) aIm prIm)).spend 10

/-- s <- v: `s <- 1` before the stages, `s <- jump` at the end of each (42 R112). -/
def setStep (v : Nat) (w : Work M F) : Work M F := { w with regs := { w.regs with sStep := v } }

/-- The start of group g of a stage: g takes its value, p <- g (42 R112). -/
def stageGroupEnter (g : Nat) (w : Work M F) : Work M F := { w with regs := { w.regs with g := g, p := g } }

/-- One pair of a group of the stage with step size s: BFLY(p, p + s), then p <- p + jump (42 R112). -/
def stagePair (e : Env M F) (s p : Nat) (w : Work M F) : Work M F :=
  let w := bfly e p (p + s) w
  { w with regs := { w.regs with p := p + 2 * s } }

/-- Group g of a stage: its N/jump pairs, then one TW.ADV (42 R111, R112). -/
def stageGroup (e : Env M F) (n s g : Nat) (w : Work M F) : Work M F :=
  twAdv e.num (forStride (2 * s) (stagePair e s) (n / (2 * s)) g (stageGroupEnter g w))

/-- A stage: TW.SETUP, TW.INIT, its s groups in increasing g, then s <- jump (42 R111, R112). -/
def stage (e : Env M F) (dir : Direction) (n s : Nat) (w : Work M F) : Work M F :=
  setStep (2 * s) (forStride 1 (stageGroup e n s) s 0 (twInit e.num (twSetup e.num dir s w)))

/-- FFT_CORE(N, d): the stages s = 1, 2, 4, …, N/2, after which S_STEP is N (42 R112, 00_scope R16). -/
def fftCore (e : Env M F) (dir : Direction) (n : Nat) (w : Work M F) : Work M F :=
  forStride 1 (fun t => stage e dir n (2 ^ t)) (Nat.log2 n) 0 (setStep 1 w)

/-- One element of SCALE.N(N) (42 R113). -/
def scaleElem (e : Env M F) (n k : Nat) (w : Work M F) : Work M F :=
  let re := e.num.div w.draw (e.dst w.mem k .re) (e.num.fromNat n)
  let im := e.num.div (w.draw + 1) (e.dst w.mem k .im) (e.num.fromNat n)
  let w := (w.put e k re im).spend 2
  { w with regs := { w.regs with k := k } }

/-- SCALE.N(N): every component divided by N (42 R113). -/
def scaleN (e : Env M F) (n : Nat) (w : Work M F) : Work M F := forStride 1 (scaleElem e n) n 0 w

/-- The procedure of FFT.FWD (42 R114). -/
def fftForward (e : Env M F) (n : Nat) (w : Work M F) : Work M F :=
  fftCore e .forward n (permute e n (copyIn e false n w))

/-- The procedure of FFT.INV (42 R115). -/
def fftInverse (e : Env M F) (n : Nat) (w : Work M F) : Work M F :=
  scaleN e n (fftCore e .inverse n (permute e n (copyIn e false n w)))

/-- FFT.FWD (42 R114). -/
def execFftFwd (s : State) : Host.Outcome State Fault Refusal := runCommand .fftFwd fftForward s

/-- FFT.INV (42 R115). -/
def execFftInv (s : State) : Host.Outcome State Fault Refusal := runCommand .fftInv fftInverse s

end Sys2Proof.Machine
end

