-- ==== Sys2Proof/Machine/Hartley.lean ====
section
/-! DEFINITION. Unit HBL: the Hartley table, the level-doubling ladder, the normalisation, and the command FHT
(43_hartley R130 to R136). -/

namespace Sys2Proof.Machine

variable {M F : Type}

/-- Entry k of HT.TABLE(N): the angle ((2·PI)·k)/N, its cosine and its sine (43 R130). -/
def tableEntry (num : Num F) (n k : Nat) (w : Work M F) : Work M F :=
  let d := w.draw
  let ang := num.div (d + 2) (num.mul (d + 1) (num.mul d (num.fromNat 2) num.pi) (num.fromNat k)) (num.fromNat n)
  { w with
    regs := { w.regs with htC := w.regs.htC.set k (num.cos ang), htS := w.regs.htS.set k (num.sin ang), k := k }
    draw := d + 3 }

/-- HT.TABLE(N): entries 0 to N/2 - 1 (43 R130). -/
def hartleyTable (num : Num F) (n : Nat) (w : Work M F) : Work M F := forStride 1 (tableEntry num n) (n / 2) 0 w

/-- HT.ROT(x, y, t): both results from the old pair (43 R131). -/
def htRot (e : Env M F) (x y t : Nat) (w : Work M F) : Work M F :=
  let n := e.num
  let d := w.draw
  let a := e.dst w.mem x .re
  let b := e.dst w.mem y .re
  let c := w.regs.htC.getD t n.zero
  let sn := w.regs.htS.getD t n.zero
  let w := w.putRe e x (n.add (d + 2) (n.mul d a c) (n.mul (d + 1) b sn))
  (w.putRe e y (n.sub (d + 5) (n.mul (d + 3) a sn) (n.mul (d + 4) b c))).spend 6

/-- HT.ADDSUB(x, y) (43 R132). -/
def htAddSub (e : Env M F) (x y : Nat) (w : Work M F) : Work M F :=
  let a := e.dst w.mem x .re
  let b := e.dst w.mem y .re
  let w' := w.putRe e x (e.num.add w.draw a b)
  (w'.putRe e y (e.num.sub (w.draw + 1) a b)).spend 2

/-- scale <- N/2, level <- 2: the start of the ladder (43 R134). -/
def ladderEnter (n : Nat) (w : Work M F) : Work M F := { w with regs := { w.regs with scale := n / 2, level := 2 } }

/-- g <- 0: the start of a level (43 R134). -/
def levelEnter (w : Work M F) : Work M F := { w with regs := { w.regs with g := 0 } }

/-- i <- 1, j <- half - 1: the start of a group (43 R134). -/
def ladderGroupEnter (level : Nat) (w : Work M F) : Work M F :=
  { w with regs := { w.regs with i := 1, j := level / 2 - 1 } }

/-- The rotation of the pair at offsets i and j of the second half of the group at g, with table entry scale·i,
scale = N/level, then i <- i + 1 and j <- j - 1 (43 R133, R134). -/
def ladderRot (e : Env M F) (n level g i j : Nat) (w : Work M F) : Work M F :=
  let half := level / 2
  let w := htRot e (g + half + i) (g + half + j) (n / level * i) w
  { w with regs := { w.regs with i := i + 1, j := j - 1 } }

/-- The combination at offset i of the group at g; i takes its value first (43 R133, R134). -/
def ladderAddSub (e : Env M F) (level g i : Nat) (w : Work M F) : Work M F :=
  htAddSub e (g + i) (g + level / 2 + i) { w with regs := { w.regs with i := i } }

/-- g <- g + level: the end of the group at g (43 R134). -/
def ladderGroupLeave (level g : Nat) (w : Work M F) : Work M F := { w with regs := { w.regs with g := g + level } }

/-- scale <- scale/2, level <- 2·level: the end of a level. After the last one SCALE is 0 and LEVEL is 2N (43 R134). -/
def levelLeave (n level : Nat) (w : Work M F) : Work M F :=
  { w with regs := { w.regs with scale := n / level / 2, level := 2 * level } }

/-- A group of the ladder: the rotations at (i, j) = (1, half - 1), (2, half - 2), … while i < j, then the half
combinations (43 R134). -/
def ladderGroup (e : Env M F) (n level g : Nat) (w : Work M F) : Work M F :=
  let half := level / 2
  let w := forStride 1 (fun i => ladderRot e n level g i (half - i)) ((half - 1) / 2) 1 (ladderGroupEnter level w)
  ladderGroupLeave level g (forStride 1 (ladderAddSub e level g) half 0 w)

/-- A level of the ladder: its N/level groups (43 R134). -/
def ladderLevel (e : Env M F) (n level : Nat) (w : Work M F) : Work M F :=
  levelLeave n level (forStride level (ladderGroup e n level) (n / level) 0 (levelEnter w))

/-- HT.LADDER(N): the levels 2, 4, …, N (43 R134). -/
def ladder (e : Env M F) (n : Nat) (w : Work M F) : Work M F :=
  forStride 1 (fun t => ladderLevel e n (2 ^ (t + 1))) (Nat.log2 n) 0 (ladderEnter n w)

/-- ROOTN <- fsqrt(fromNat(N)), once (43 R135). -/
def normRoot (num : Num F) (n : Nat) (w : Work M F) : Work M F :=
  { w with regs := { w.regs with rootN := num.fsqrt w.draw (num.fromNat n) }, draw := w.draw + 1 }

/-- One element of HT.NORM: divided by ROOTN (43 R135). -/
def normElem (e : Env M F) (k : Nat) (w : Work M F) : Work M F :=
  let re := e.num.div w.draw (e.dst w.mem k .re) w.regs.rootN
  let w := (w.putRe e k re).spend 1
  { w with regs := { w.regs with k := k } }

/-- HT.NORM(N) (43 R135). -/
def hartleyNorm (e : Env M F) (n : Nat) (w : Work M F) : Work M F := forStride 1 (normElem e) n 0 (normRoot e.num n w)

/-- The procedure of FHT (43 R136). -/
def hartley (e : Env M F) (n : Nat) (w : Work M F) : Work M F :=
  hartleyNorm e n (ladder e n (hartleyTable e.num n (permute e n (copyIn e true n w))))

/-- FHT (43 R136). -/
def execFht (s : State) : Host.Outcome State Fault Refusal := runCommand .fht hartley s

end Sys2Proof.Machine
end

