-- ==== Sys2Proof/Machine/Spectral.lean ====
section
/-! DEFINITION. Unit SMP: magnitude and phase, and the commands MAG and PHASE (44_spectral R150 to R155). -/

namespace Sys2Proof.Machine

variable {M F : Type}

/-- MAG.E(re, im) = fsqrt((re *. re) +. (im *. im)), four rounded operations (44 R150). -/
def magE (num : Num F) (d : Nat) (re im : F) : F :=
  num.fsqrt (d + 3) (num.add (d + 2) (num.mul d re re) (num.mul (d + 1) im im))

/-- PHASE.E(re, im) = ATAN2(re, im): the real part is the ordinate (44 R151). -/
def phaseE (num : Num F) (re im : F) : F := num.atan2 re im

/-- One element of ELEMENTWISE(N, f), f using up `cost` free values (44 R154). -/
def elementwiseElem (e : Env M F) (f : Nat → F → F → F) (cost k : Nat) (w : Work M F) : Work M F :=
  let re := f w.draw (e.src w.mem k .re) (e.src w.mem k .im)
  let w := (w.put e k re e.num.zero).spend cost
  { w with regs := { w.regs with k := k } }

/-- One element of MAG. -/
def magElem (e : Env M F) (k : Nat) (w : Work M F) : Work M F := elementwiseElem e (magE e.num) 4 k w

/-- One element of PHASE. -/
def phaseElem (e : Env M F) (k : Nat) (w : Work M F) : Work M F := elementwiseElem e (fun _ => phaseE e.num) 0 k w

/-- ELEMENTWISE(N, MAG.E), the procedure of MAG (44 R152, R154). -/
def magnitude (e : Env M F) (n : Nat) (w : Work M F) : Work M F := forStride 1 (magElem e) n 0 w

/-- ELEMENTWISE(N, PHASE.E), the procedure of PHASE (44 R153, R154). -/
def phases (e : Env M F) (n : Nat) (w : Work M F) : Work M F := forStride 1 (phaseElem e) n 0 w

/-- MAG (44 R152). -/
def execMag (s : State) : Host.Outcome State Fault Refusal := runCommand .mag magnitude s

/-- PHASE (44 R153). -/
def execPhase (s : State) : Host.Outcome State Fault Refusal := runCommand .phase phases s

end Sys2Proof.Machine
end

