-- ==== Sys2Proof/Machine/Dispatch.lean ====
section
/-! DEFINITION. One arm for each command. -/

namespace Sys2Proof.Machine

def exec (i : Instr) (s : State) : Host.Outcome State Fault Refusal :=
  match i with
  | .fftFwd => Sys2Proof.Machine.execFftFwd s
  | .fftInv => Sys2Proof.Machine.execFftInv s
  | .fht => Sys2Proof.Machine.execFht s
  | .mag => Sys2Proof.Machine.execMag s
  | .phase => Sys2Proof.Machine.execPhase s

end Sys2Proof.Machine
end

