-- ==== Sys2Proof/Machine/HostPort.lean ====
section
/-! DEFINITION. The host port: the element-level transactions (20_memory R51), the byte wrapper (R52 to R55), and reset
(70 R190, R191). -/

namespace Sys2Proof.Machine

/-- The port's answer. -/
def State.answer (r : Response) (s : State) : State := { s with resp := r }

/-- HostReadReg(r) (20_memory R51): CMD and the numbers above 4 read as 0. -/
def State.regValue (s : State) (r : Nat) : Word :=
  match r with
  | 1 => s.len
  | 2 => s.status.word
  | 3 => s.rlen
  | 4 => s.cap
  | _ => 0

/-- HostWriteReg(r, v) (20_memory R51): ignored while BUSY; else a write of CMD issues the word, a write of LEN stores,
any other is ignored. -/
def State.writeReg (r : Nat) (v : Word) (s : State) : State :=
  if s.busy then s
  else match r with
    | 0 => s.accept v
    | 1 => { s with len := v }
    | _ => s

/-- HostWriteBuf(k, lane, x) (20_memory R51): ignored while BUSY and for k >= NMAX. The lane becomes listed, which sets
its ghost bit (10_state R38). -/
def State.writeBuf (k : Nat) (l : Lane) (x : F64) (s : State) : State :=
  if s.busy || decide (Config.nmax ≤ k) then s
  else { s with mem := s.mem.writeLane (Memory.offset .src k l) x }

/-- The value HostReadBuf(sp, k, lane) returns (20_memory R51): 0 for k >= NMAX, a free value for DST while BUSY. -/
def State.bufValue (s : State) (sp : Space) (k : Nat) (l : Lane) : F64 :=
  if Config.nmax ≤ k then 0
  else match sp with
    | .src => s.src k l
    | .dst => if s.busy then Config.busyRead s.draw else s.dst k l

/-- A read of DST[k], k < NMAX, while BUSY uses up a free value: two such reads are not related (93 U12). Nothing else
changes. -/
def State.noteRead (sp : Space) (k : Nat) (s : State) : State :=
  if s.busy && sp == .dst && decide (k < Config.nmax) then { s with draw := s.draw + 1 } else s

/-- What an 8-byte slot of the byte map holds (20_memory R52). -/
inductive Slot where
  | reg (r : Nat)
  | lane (sp : Space) (k : Nat) (l : Lane)
  | reserved
  deriving DecidableEq, Repr

/-- The slot at an offset from BASE (20_memory R52). -/
def slotOf (o : Nat) : Slot :=
  let b := Config.bufBytes
  if o < 0x28 then .reg (o / 8)
  else if o < b then .reserved
  else if o < 2 * b then .lane .src ((o - b) / 16) (if (o - b) % 16 < 8 then .re else .im)
  else if o < 3 * b then .lane .dst ((o - 2 * b) / 16) (if (o - 2 * b) % 16 < 8 then .re else .im)
  else .reserved

/-- The one access shape the wrapper takes: 8 bytes, aligned, inside [BASE, BASE + 4·B) (20_memory R54). -/
def busSlot (base width addr : Nat) : Option Slot :=
  if width = 8 ∧ addr % 8 = 0 ∧ base ≤ addr ∧ addr < base + 4 * Config.bufBytes then some (slotOf (addr - base))
  else none

/-- A wrapper write: the transaction of its slot; a register takes bits [31:0]; DST and reserved slots ignore it; a
refused access is a bus error and changes no state (20_memory R52, R54). -/
def State.busWrite (base width addr : Nat) (v : BitVec 64) (s : State) : State :=
  match busSlot base width addr with
  | none                 => s.answer .busError
  | some (.reg r)        => (s.writeReg r (v.extractLsb' 0 32)).answer .written
  | some (.lane .src k l) => (s.writeBuf k l v).answer .written
  | some (.lane .dst _ _) => s.answer .written
  | some .reserved       => s.answer .written

/-- A wrapper read: a register zero-extended, a lane, 0 at a reserved slot (20_memory R52, R54). -/
def State.busRead (base width addr : Nat) (s : State) : State :=
  match busSlot base width addr with
  | none                => s.answer .busError
  | some (.reg r)       => s.answer (.bus ((s.regValue r).setWidth 64))
  | some (.lane sp k l) => (s.noteRead sp k).answer (.bus (s.bufValue sp k l))
  | some .reserved      => s.answer (.bus 0)

/-- A host transaction (20_memory R51, R54). -/
def State.transact (t : HostTx) (s : State) : State :=
  match t with
  | .writeReg r v            => (s.writeReg r v).answer .written
  | .readReg r               => s.answer (.reg (s.regValue r))
  | .writeBuf k l x          => (s.writeBuf k l x).answer .written
  | .readBuf sp k l          => (s.noteRead sp k).answer (.lane (s.bufValue sp k l))
  | .busWrite width addr v   => s.busWrite Config.base width addr v
  | .busRead width addr      => s.busRead Config.base width addr

/-- Reset, at any point between two other events (70 R190, R191): the state of 10_state R40. A command in flight is
abandoned. SRC and DST are unspecified anew: unlisted, with fresh seeds. -/
def State.afterReset (s : State) : State :=
  { State.reset with draw := s.draw + 1, srcSeed := s.draw + 1, dstSeed := s.draw + 1, events := s.events }

end Sys2Proof.Machine
end

