-- ==== Sys2Proof/Machine/Sequencer.lean ====
section
/-! DEFINITION. The sequencer one micro-operation at a time: what it does at each position SEQ and which position comes
next (10_state R35; the loop nests of 42 R112, 43 R134, 44 R154). The commands of Machine/Fft.lean, Hartley.lean and
Spectral.lean are the same micro-operations in the one step that R35 allows. -/

namespace Sys2Proof.Machine

/-- Apply a micro-operation of the units. -/
def State.micro (f : Env Memory F64 → Work Memory F64 → Work Memory F64) (s : State) : State := s.withWork (f s.env s.work)

/-- The first position of a command's procedure (30_encoding R81). -/
def firstPosition : Decoded → Seq
  | .ok .fftFwd => .copyIn 0
  | .ok .fftInv => .copyIn 0
  | .ok .fht    => .copyIn 0
  | .ok .mag    => .elementwise 0
  | .ok .phase  => .elementwise 0
  | .illegal _  => .idle

/-- Where a group of the ladder begins: its rotations, if it has any, else its combinations (43 R134). -/
def groupStart (level g : Nat) : Seq :=
  if 1 < level / 2 - 1 then .htRot level g 1 (level / 2 - 1) else .htAddSub level g 0

/-- The position after the pair p of group g (42 R112). -/
def afterPair (n s g p : Nat) : Seq :=
  if p + 2 * s < n then .fftStage s g (p + 2 * s) .pair else .fftStage s g (p + 2 * s) .advance

/-- The position before the first group of the stage with step size s, where TW.SETUP and TW.INIT come. 10_state R35 gives
the position a group and a pair, which 42 R112 has not assigned yet. DESIGN CHOICE (log 18): both are 0. -/
def stageStart (s : Nat) : Seq := .fftStage s 0 0 .setup

/-- The position after group g of stage s: the next group, the next stage, or what follows the stages (42 R112, R114,
R115). -/
def afterGroup (dir : Direction) (n s g : Nat) : Seq :=
  if g + 1 < s then .fftStage s (g + 1) (g + 1) .pair
  else if 2 * s < n then stageStart (2 * s)
  else match dir with
    | .forward => .complete
    | .inverse => .scaleN 0

/-- The position after the rotation (i, j) (43 R134). -/
def afterRot (level g i j : Nat) : Seq :=
  if i + 1 < j - 1 then .htRot level g (i + 1) (j - 1) else .htAddSub level g 0

/-- The position after the combination i: the next one, the next group, the next level, or the normalisation (43
R134). -/
def afterAddSub (n level g i : Nat) : Seq :=
  if i + 1 < level / 2 then .htAddSub level g (i + 1)
  else if g + level < n then groupStart level (g + level)
  else if 2 * level ≤ n then groupStart (2 * level) 0
  else .htNorm 0

/-- What the turn of a TW.ADV assigns after it: the start of the next group, or s <- jump at the end of the stage (42
R112, log 18). -/
def stageGroupTail {F : Type} (s g : Nat) (w : Work Memory F) : Work Memory F :=
  if g + 1 < s then stageGroupEnter (g + 1) w else setStep (2 * s) w

/-- What the turn of the combination i assigns after it: at the end of the group g <- g + level, then the start of the
next group, or the end of the level and the start of the next one (43 R134, log 18). -/
def addSubTail {F : Type} (n level g i : Nat) (w : Work Memory F) : Work Memory F :=
  if i + 1 < level / 2 then w
  else
    let w := ladderGroupLeave level g w
    if g + level < n then ladderGroupEnter level w
    else
      let w := levelLeave n level w
      if 2 * level ≤ n then ladderGroupEnter (2 * level) (levelEnter w) else w

/-- Validation of the accepted word (30_encoding R81). CMD holds it; a core with nothing there has nothing legal. -/
def State.validateTurn (s : State) : State :=
  let d := decode (s.cmd.getD 0)
  match validate d s.nAct.toNat with
  | some k => s.refuse k
  | none   => s.begin.goto (firstPosition d)

/-- One turn of a butterfly stage: TW.SETUP and TW.INIT, one BFLY, or one TW.ADV (10_state R35, 42 R112), with the loop
assignments up to the next micro-operation. -/
def State.stageTurn (s : State) (st g p : Nat) : StagePhase → State
  | .setup   =>
    (s.micro fun e w => stageGroupEnter 0 (twInit e.num (twSetup e.num s.dAct st w))).goto (.fftStage st 0 0 .pair)
  | .pair    => (s.micro fun e => stagePair e st p).goto (afterPair s.nAct.toNat st g p)
  | .advance => (s.micro fun e w => stageGroupTail st g (twAdv e.num w)).goto (afterGroup s.dAct s.nAct.toNat st g)

/-- One turn of the sequencer: the micro-operation at its position with the loop assignments up to the next one, then the
next position. A position at the end of a phase (k = N) only moves on to the next phase (10_state R35). Idle, it does
nothing (00_scope R6). -/
def State.turn (s : State) : State :=
  let n := s.nAct.toNat
  match s.seq with
  | .idle => s
  | .validate => s.validateTurn
  | .copyIn k =>
    if k < n then (s.micro fun e => copyElem e (s.opAct == 2) k).goto (.copyIn (k + 1)) else s.goto (.bitRev 0)
  | .bitRev i =>
    if i < n then (s.micro fun e => revVisit e (Nat.log2 n) i).goto (.bitRev (i + 1))
    else if s.opAct = 1 then (s.micro fun _ => setStep 1).goto (stageStart 1)
    else s.goto (.htTable 0)
  | .fftStage st g p phase => s.stageTurn st g p phase
  | .scaleN k => if k < n then (s.micro fun e => scaleElem e n k).goto (.scaleN (k + 1)) else s.goto .complete
  | .htTable k =>
    if k < n / 2 then (s.micro fun e => tableEntry e.num n k).goto (.htTable (k + 1))
    else (s.micro fun _ w => ladderGroupEnter 2 (levelEnter (ladderEnter n w))).goto (groupStart 2 0)
  | .htRot level g i j => (s.micro fun e => ladderRot e n level g i j).goto (afterRot level g i j)
  | .htAddSub level g i =>
    (s.micro fun e w => addSubTail n level g i (ladderAddSub e level g i w)).goto (afterAddSub n level g i)
  | .htNorm k =>
    if k < n then
      (s.micro fun e w => normElem e k (if k = 0 then normRoot e.num n w else w)).goto (.htNorm (k + 1))
    else s.goto .complete
  | .elementwise k =>
    if k < n then
      (s.micro fun e => if s.opAct = 3 then magElem e k else phaseElem e k).goto (.elementwise (k + 1))
    else s.goto .complete
  | .complete => s.complete

/-- n turns of the sequencer with nothing in between. -/
def State.turns : Nat → State → State
  | 0, s => s
  | n + 1, s => State.turns n s.turn

end Sys2Proof.Machine
end

