-- ==== Sys2Proof/Machine/Events.lean ====
section
/-! DEFINITION. What one event does (20_memory R59), and how a command word is placed before the core. -/

namespace Sys2Proof.Machine

/-- The issue of a word, run to its end: the command it decodes to, or the refusal of an illegal word (30_encoding R74,
R75, R80). -/
def issue (w : Word) (s : State) : Host.Outcome State Fault Refusal :=
  match decode w with
  | .ok i      => exec i s
  | .illegal _ => runIllegal w s

/-- One event. -/
def happen (ev : Event) (s : State) : Host.Outcome State Fault Refusal :=
  match ev with
  | .host t    => .next (s.transact t)
  | .turn      => .next s.turn
  | .command w => issue w (s.answer .written)
  | .reset _   => .next s.afterReset

/-- A core ready to take a command: one that is BUSY is put to IDLE, any other is as it is. -/
def State.ready (s : State) : State :=
  if s.busy then { s with cmd := none, status := { s.status with state := .idle }, seq := .idle } else s

/-- The host's write of a command word as the very next event. -/
def State.present (w : Word) (s : State) : State := { s.ready with events := .command w :: s.events }

end Sys2Proof.Machine
end

