-- ==== Sys2Proof/Machine/Step.lean ====
section
/-! DEFINITION. One step of the machine: the next event of the total order of 20_memory R59, and when none is given, the
sequencer's turn, so that a BUSY core goes on by itself (70 R199). -/

namespace Sys2Proof.Machine

/-- One step. -/
def step (s : State) : Host.Outcome State Fault Refusal :=
  match s.events with
  | []        => .next s.turn
  | ev :: evs => happen ev { s with events := evs }

/-- s with a command word, numbered as spec/opcode_table.json numbers it, as the host's next write to CMD (log 12). -/
def State.withFetchWord (s : State) (nbits w : Nat) : State := s.present (tableWord nbits w)

end Sys2Proof.Machine
end

