-- ==== Sys2Proof/Machine/HostProgram.lean ====
section
/-! DEFINITION. The host-program statements of 30_encoding R77 and the macros of R78, as the events they stand for. -/

namespace Sys2Proof.Machine

/-- A host statement (30_encoding R77). `wait` is as many reads of STATUS as the host happens to make. -/
inductive HostStmt where
  | wlen (n : Word)
  | wsrc (k : Nat) (re im : F64)
  | wsrcr (k : Nat) (re : F64)
  | cmd (i : Instr)
  | cmdw (w : Word)
  | wait (polls : Nat)
  | rstat
  | rrlen
  | rdst (k : Nat)
  | reset
  deriving DecidableEq, Repr

/-- The events of a statement (30_encoding R77). -/
def HostStmt.events : HostStmt → List Event
  | .wlen n       => [.host (.writeReg 1 n)]
  | .wsrc k re im => [.host (.writeBuf k .re re), .host (.writeBuf k .im im)]
  | .wsrcr k re   => [.host (.writeBuf k .re re)]
  | .cmd i        => [.host (.writeReg 0 (encode i))]
  | .cmdw w       => [.host (.writeReg 0 w)]
  | .wait polls   => List.replicate polls (.host (.readReg 2))
  | .rstat        => [.host (.readReg 2)]
  | .rrlen        => [.host (.readReg 3)]
  | .rdst k       => [.host (.readBuf .dst k .re), .host (.readBuf .dst k .im)]
  | .reset        => [.reset none]

/-- `wsrc k, x[k].re, x[k].im` for each k (30_encoding R78). -/
def writePairs (x : List (F64 × F64)) : List HostStmt := x.zipIdx.map fun e => .wsrc e.2 e.1.1 e.1.2

/-- `wsrcr k, x[k]` for each k (30_encoding R78). -/
def writeReals (x : List F64) : List HostStmt := x.zipIdx.map fun e => .wsrcr e.2 e.1

/-- What every macro does after its input is written (30_encoding R78). -/
def issueAndRead (i : Instr) (n polls : Nat) : List HostStmt :=
  [.wlen (BitVec.ofNat 32 n), .cmd i, .wait polls, .rstat] ++ (List.range n).map .rdst

/-- The macros of 30_encoding R78: ForwardFFT, InverseFFT, magnitude, phase on pairs, FHT on reals. -/
def forwardFFT (polls : Nat) (x : List (F64 × F64)) : List HostStmt := writePairs x ++ issueAndRead .fftFwd x.length polls
def inverseFFT (polls : Nat) (x : List (F64 × F64)) : List HostStmt := writePairs x ++ issueAndRead .fftInv x.length polls
def forwardFHT (polls : Nat) (x : List F64) : List HostStmt := writeReals x ++ issueAndRead .fht x.length polls
def magnitudeOf (polls : Nat) (x : List (F64 × F64)) : List HostStmt := writePairs x ++ issueAndRead .mag x.length polls
def phaseOf (polls : Nat) (x : List (F64 × F64)) : List HostStmt := writePairs x ++ issueAndRead .phase x.length polls

/-- A macro's result once the core is not BUSY: DST[0..n-1] when STATE = DONE, else the error kind (30_encoding R78). -/
def macroResult (n : Nat) (s : State) : Except ErrorKind (List (F64 × F64)) :=
  if s.status.state = .done then .ok ((List.range n).map fun k => (s.dst k .re, s.dst k .im)) else .error s.status.err

end Sys2Proof.Machine
end

