-- ==== Sys2Proof/Machine/Reference.lean ====
section
/-! DEFINITION. What statements about the core are made with, and no part of the machine: the real value of a binary64
word (00_scope R11), rounding to nearest even (R7), the accuracy assumptions of R8, NUM in exact real arithmetic (42 R117,
43 R137), and the reference functions and the tolerance of 48_reference_functions R160 to R164. -/

namespace Sys2Proof.Machine

/-- The real value of a finite word. -/
noncomputable def Float64.value (a : F64) : ℝ := (Float64.signedSignificand a : ℝ) * 2 ^ ((Float64.scale a : ℤ) - 1074)

/-- The unit in the last place of a finite word: the spacing of the words of its exponent (log 22). -/
noncomputable def Float64.ulp (a : F64) : ℝ := 2 ^ ((Float64.scale a : ℤ) - 1074)

/-- The least magnitude that rounds to infinity: half a unit in the last place above the largest finite value. -/
noncomputable def Float64.overflowBound : ℝ := 2 ^ 1024 - 2 ^ 970

/-- r is x rounded to nearest, ties to even (00_scope R7): an infinity of the sign of x past the overflow bound, else a
finite word none is nearer to x than, and the even one where two are equally near. -/
def Float64.IsRounding (x : ℝ) (r : F64) : Prop :=
  if Float64.overflowBound ≤ |x| then Float64.isInf r = true ∧ Float64.sign r = decide (x < 0)
  else Float64.isFinite r = true ∧
    ∀ y : F64, Float64.isFinite y = true →
      |Float64.value r - x| ≤ |Float64.value y - x| ∧
      (|Float64.value r - x| = |Float64.value y - x| → Float64.value y ≠ Float64.value r →
        Float64.significand r % 2 = 0)

/-- One value of F up to the bits of a NaN, the only property of a NaN the spec gives (00_scope R9). -/
def Float64.SameValue (a b : F64) : Prop := a = b ∨ (Float64.isNaN a = true ∧ Float64.isNaN b = true)

/-- One number up to the bits of a NaN and the sign of a zero (41 R103, 42 R118). -/
def Float64.SameNumber (a b : F64) : Prop := Float64.SameValue a b ∨ (Float64.isZero a = true ∧ Float64.isZero b = true)

/-- The integer x as a value of F, for |x| < 2^53; 0 is +0 (00_scope R10 E6). -/
def Float64.fromInt (x : Int) : F64 := Float64.signed (decide (x < 0)) (Float64.fromNat x.natAbs)

/-- NUM.faithful (00_scope R8): SIN and COS within one unit in the last place at finite arguments, ATAN2 at finite
non-zero ones. Assumed of the default NUM by tolerance-level statements only. R8 does not define the unit in the last
place. DESIGN CHOICE (log 22): it is that of the computed word, not of the real value. -/
def Faithful (num : Num F64) : Prop :=
  (∀ a, Float64.isFinite a = true → |Float64.value (num.sin a) - Real.sin (Float64.value a)| ≤ Float64.ulp (num.sin a)) ∧
  (∀ a, Float64.isFinite a = true → |Float64.value (num.cos a) - Real.cos (Float64.value a)| ≤ Float64.ulp (num.cos a)) ∧
  (∀ y x, Float64.isFinite y = true → Float64.isFinite x = true → Float64.isZero y = false → Float64.isZero x = false →
    |Float64.value (num.atan2 y x) - Complex.arg ⟨Float64.value x, Float64.value y⟩| ≤ Float64.ulp (num.atan2 y x))

/-- NUM.cr (00_scope R8): SIN and COS correctly rounded. -/
def CorrectlyRounded (num : Num F64) : Prop :=
  (∀ a, Float64.isFinite a = true → Float64.IsRounding (Real.sin (Float64.value a)) (num.sin a)) ∧
  (∀ a, Float64.isFinite a = true → Float64.IsRounding (Real.cos (Float64.value a)) (num.cos a))

/-- NUM with every operation exact real arithmetic (42 R117, 43 R137); no operation has a NaN result, so the free values
are not used. -/
noncomputable def exactNum : Num ℝ where
  zero := 0
  add _ a b := a + b
  sub _ a b := a - b
  mul _ a b := a * b
  div _ a b := a / b
  neg a := -a
  fsqrt _ a := Real.sqrt a
  fromNat n := n
  pi := Real.pi
  sin := Real.sin
  cos := Real.cos
  atan2 y x := Complex.arg ⟨x, y⟩

/-- An environment that keeps the list of the lanes a procedure writes, in order, and holds no values. -/
def writeLog {F : Type} (num : Num F) : Env (List (Nat × Lane)) F where
  num := num
  src _ _ _ := num.zero
  dst _ _ _ := num.zero
  put m k l _ := m ++ [(k, l)]

/-- The pair (re, im) as re + i·im. -/
def toComplex (p : ℝ × ℝ) : ℂ := ⟨p.1, p.2⟩

/-- The sum of NaiveDFT(x, d) at output index n, for a sequence of length len (48 R160): the scaling c is 1 forward, 1/N
inverse. -/
noncomputable def dftSum (dir : Direction) (len : Nat) (x : Nat → ℂ) (n : Nat) : ℂ :=
  (match dir with
    | .forward => 1
    | .inverse => 1 / (len : ℂ)) *
  ∑ k ∈ Finset.range len, x k * Complex.exp (Complex.I * (dir.d : ℂ) * (-(2 * Real.pi * n * k / len) : ℂ))

/-- The sum of NaiveDHT(x) at output index i, for a sequence of length len (48 R161). -/
noncomputable def dhtSum (len : Nat) (x : Nat → ℝ) (i : Nat) : ℝ :=
  1 / Real.sqrt len *
    ∑ k ∈ Finset.range len, x k * (Real.sin (2 * Real.pi * i * k / len) + Real.cos (2 * Real.pi * i * k / len))

/-- The lengths the reference transforms take (48 R160, R161). -/
def naiveDftAccepts (n : Nat) : Bool := decide (2 ≤ n) && ispow2 n
def naiveDhtAccepts (n : Nat) : Bool := n % 2 == 0

/-- NaiveDFT(x, d): InvalidLength, or the output by index (48 R160). ForwardDFT is the forward one. -/
noncomputable def naiveDft (dir : Direction) (len : Nat) (x : Nat → ℂ) : Except ErrorKind (Nat → ℂ) :=
  if naiveDftAccepts len then .ok (dftSum dir len x) else .error .invalidLength

/-- NaiveDHT(x), also ForwardDHT(x): InvalidLength, or the output by index (48 R161). -/
noncomputable def naiveDht (len : Nat) (x : Nat → ℝ) : Except ErrorKind (Nat → ℝ) :=
  if naiveDhtAccepts len then .ok (dhtSum len x) else .error .invalidLength

/-- TOL as a real number (00_scope R5, 48 R164). -/
noncomputable def tol : ℝ := (Config.tol : ℝ)

/-- The largest magnitude in a list of lanes. -/
noncomputable def maxAbs (l : List ℝ) : ℝ := l.foldr (fun x m => max |x| m) 0

/-- y ≈ r (48 R164): relative to the largest reference lane. -/
def Approx (y r : List ℝ) : Prop := y.length = r.length ∧ maxAbs (List.zipWith (· - ·) y r) ≤ tol * maxAbs r

/-- A procedure on a bare sequence, in whatever numbers. -/
abbrev Transform := ∀ {F : Type}, Env (Nat → F × F) F → Nat → Work (Nat → F × F) F → Work (Nat → F × F) F

/-- The first n results of a procedure on a sequence of n elements. -/
def resultOf {F : Type} (num : Num F) (regs : Regs F) (proc : Env (Nat → F × F) F → Nat → Work (Nat → F × F) F → Work (Nat → F × F) F)
    (n : Nat) (x : Nat → F × F) : Nat → F × F :=
  (proc (sequenceEnv num x) n ⟨x, regs, 0⟩).mem

/-- The result of a transform on a sequence in binary64, from the registers as reset leaves them (10_state R37: they do not
matter). -/
def transformed (num : Num F64) (proc : Transform) (n : Nat) (x : Nat → F64 × F64) : Nat → F64 × F64 :=
  resultOf num Regs.reset proc n x

/-- The lanes of the first n elements, as real values. -/
noncomputable def laneValues (n : Nat) (x : Nat → F64 × F64) : List ℝ :=
  (List.range n).flatMap fun k => [Float64.value (x k).1, Float64.value (x k).2]

/-- The real lanes of the first n elements, as real values. -/
noncomputable def realValues (n : Nat) (x : Nat → F64 × F64) : List ℝ := (List.range n).map fun k => Float64.value (x k).1

/-! ### No intermediate value overflows -/

/-- A value that is there only if it is finite. -/
def Float64.keepFinite (a : F64) : Option F64 := if Float64.isFinite a then some a else none

/-- NUM over values that may be missing: a result is missing if an operand is or if it is not finite. -/
def checkedNum (num : Num F64) : Num (Option F64) where
  zero := Float64.keepFinite num.zero
  add d a b := a.bind fun a => b.bind fun b => Float64.keepFinite (num.add d a b)
  sub d a b := a.bind fun a => b.bind fun b => Float64.keepFinite (num.sub d a b)
  mul d a b := a.bind fun a => b.bind fun b => Float64.keepFinite (num.mul d a b)
  div d a b := a.bind fun a => b.bind fun b => Float64.keepFinite (num.div d a b)
  neg a := a.bind fun a => Float64.keepFinite (num.neg a)
  fsqrt d a := a.bind fun a => Float64.keepFinite (num.fsqrt d a)
  fromNat n := Float64.keepFinite (num.fromNat n)
  pi := Float64.keepFinite num.pi
  sin a := a.bind fun a => Float64.keepFinite (num.sin a)
  cos a := a.bind fun a => Float64.keepFinite (num.cos a)
  atan2 y x := y.bind fun y => x.bind fun x => Float64.keepFinite (num.atan2 y x)

/-- Registers with every value of F translated. -/
def Regs.map {F G : Type} (f : F → G) (r : Regs F) : Regs G where
  twRe := f r.twRe
  twIm := f r.twIm
  mulRe := f r.mulRe
  mulIm := f r.mulIm
  sStep := r.sStep
  jump := r.jump
  piD := f r.piD
  delta := f r.delta
  sine := f r.sine
  htC := r.htC.map f
  htS := r.htS.map f
  level := r.level
  scale := r.scale
  rootN := f r.rootN
  g := r.g
  p := r.p
  i := r.i
  j := r.j
  k := r.k

/-- No value that a transform computes on the way to its results overflows, and the lanes it reads are finite (48 R163:
"finite inputs small enough that no intermediate value overflows"). -/
def NoOverflow (num : Num F64) (proc : Transform) (n : Nat) (x : Nat → F64 × F64) : Prop :=
  let y := resultOf (checkedNum num) (Regs.reset.map Float64.keepFinite) proc n
    fun k => (Float64.keepFinite (x k).1, Float64.keepFinite (x k).2)
  ∀ k, k < n → (y k).1.isSome = true ∧ (y k).2.isSome = true

/-! ### The properties of 48 R163 -/

/-- The lengths of the properties: 2, 4, 8, …, NMAX. -/
def ValidLength (n : Nat) : Prop := ∃ m, 1 ≤ m ∧ m ≤ Config.log2Nmax ∧ n = 2 ^ m

/-- A finite ComplexSequence of length n. -/
def FiniteSequence (n : Nat) (x : Nat → F64 × F64) : Prop :=
  ∀ k, k < n → Float64.isFinite (x k).1 = true ∧ Float64.isFinite (x k).2 = true

/-- A finite RealSequence of length n: its elements are the real lanes (00_scope R13, 43 R136). -/
def FiniteRealSequence (n : Nat) (x : Nat → F64 × F64) : Prop := ∀ k, k < n → Float64.isFinite (x k).1 = true

/-- The procedure of the FFT in a direction (42 R114, R115). -/
def fftOf (dir : Direction) : Transform := fun e n w =>
  match dir with
  | .forward => fftForward e n w
  | .inverse => fftInverse e n w

/-- FHT as a transform (43 R136). -/
def fhtOf : Transform := fun e n w => hartley e n w

/-- P-ROUNDTRIP at one input (48 R163). -/
def RoundTripsAt (num : Num F64) (n : Nat) (x : Nat → F64 × F64) : Prop :=
  Approx (laneValues n (transformed num (fftOf .inverse) n (transformed num (fftOf .forward) n x))) (laneValues n x)

/-- P-XCHECK-FFT at one input, in one direction (48 R163). -/
def FftMatchesDftAt (num : Num F64) (dir : Direction) (n : Nat) (x : Nat → F64 × F64) : Prop :=
  ∃ r, naiveDft dir n (fun k => toComplex (Float64.value (x k).1, Float64.value (x k).2)) = .ok r ∧
    Approx (laneValues n (transformed num (fftOf dir) n x)) ((List.range n).flatMap fun i => [(r i).re, (r i).im])

/-- P-XCHECK-FHT at one input (48 R163). -/
def FhtMatchesDhtAt (num : Num F64) (n : Nat) (x : Nat → F64 × F64) : Prop :=
  ∃ r, naiveDht n (fun k => Float64.value (x k).1) = .ok r ∧
    Approx (realValues n (transformed num fhtOf n x)) ((List.range n).map r)

/-- P-INVOLUTION at one input (48 R163). -/
def FhtIsInvolutionAt (num : Num F64) (n : Nat) (x : Nat → F64 × F64) : Prop :=
  Approx (realValues n (transformed num fhtOf n (transformed num fhtOf n x))) (realValues n x)

/-- P-ROUNDTRIP: for every valid N and every finite ComplexSequence on which nothing overflows,
InverseFFT(ForwardFFT(x)) ≈ x (48 R163). -/
def RoundTrips (num : Num F64) : Prop :=
  ∀ n x, ValidLength n → FiniteSequence n x → NoOverflow num (fftOf .forward) n x →
    NoOverflow num (fftOf .inverse) n (transformed num (fftOf .forward) n x) → RoundTripsAt num n x

/-- P-XCHECK-FFT: likewise ForwardFFT(x) ≈ NaiveDFT(x, +1), and InverseFFT(x) ≈ NaiveDFT(x, −1) (48 R163). -/
def FftMatchesDft (num : Num F64) : Prop :=
  ∀ dir n x, ValidLength n → FiniteSequence n x → NoOverflow num (fftOf dir) n x → FftMatchesDftAt num dir n x

/-- P-XCHECK-FHT: for every valid N and every finite RealSequence on which nothing overflows, FHT(x) ≈ NaiveDHT(x) (48
R163). -/
def FhtMatchesDht (num : Num F64) : Prop :=
  ∀ n x, ValidLength n → FiniteRealSequence n x → NoOverflow num fhtOf n x → FhtMatchesDhtAt num n x

/-- P-INVOLUTION: likewise FHT(FHT(x)) ≈ x (48 R163). -/
def FhtIsInvolution (num : Num F64) : Prop :=
  ∀ n x, ValidLength n → FiniteRealSequence n x → NoOverflow num fhtOf n x →
    NoOverflow num fhtOf n (transformed num fhtOf n x) → FhtIsInvolutionAt num n x

/-- A grid of cells by row and column. -/
abbrev Grid (α : Type) := List (List α)

/-- The cell at row j, column i, if there is one. -/
def Grid.cell {α : Type} (g : Grid α) (j i : Nat) : Option α := (g[j]?).bind (·[i]?)

/-- Exchange two cells. -/
def Grid.swapCells {α : Type} (g : Grid α) (j i j' i' : Nat) : Grid α :=
  match g.cell j i, g.cell j' i' with
  | some a, some b => (g.modify j (·.set i b)).modify j' (·.set i' a)
  | _, _           => g

/-- QuadrantSwap on a grid of width w and height h, the two loops of 48 R162 (outside the block). -/
def Grid.quadrantLoops {α : Type} (w h : Nat) (g : Grid α) : Grid α :=
  let hx := w / 2
  let hy := h / 2
  let first := forStride 1 (fun j g => forStride 1 (fun i g => Grid.swapCells g j i (j + hy) (i + hx)) hx 0 g) hy 0 g
  forStride 1 (fun j g => forStride 1 (fun i g => Grid.swapCells g j i (j + hy) (i - hx)) (w - hx) hx g) hy 0 first

/-- QuadrantSwap: InvalidShape for rows of unequal lengths (48 R162). -/
def Grid.quadrantSwap {α : Type} (g : Grid α) : Except ErrorKind (Grid α) :=
  let w := (g.headD []).length
  if g.all (·.length == w) then .ok (g.quadrantLoops w g.length) else .error .invalidShape

end Sys2Proof.Machine
end

