-- ==== Sys2Proof/Safety.lean ====
section
/-! DEFINITION. The invariant of the core: what every step keeps, from reset on, in the terms statements use. -/

namespace Sys2Proof

/-- FFT.FWD and FFT.INV. -/
def Instr.isFft : Instr → Bool
  | .fftFwd => true
  | .fftInv => true
  | .fht    => false
  | .mag    => false
  | .phase  => false

/-- The commands that begin with BRP: FFT.FWD, FFT.INV, FHT (40_bit_reverse R92). -/
def Instr.isTransform (i : Instr) : Bool := i.isFft || i == .fht

end Sys2Proof

namespace Sys2Proof.Machine

/-- A position that occurs while command i runs on n elements: its phase belongs to the command and its counters are
inside the bounds of the loops (10_state R35; 42 R111, R112; 43 R133, R134). That Setup carries g = 0 and p = 0 is log
18. -/
def Seq.okFor (i : Instr) (n : Nat) : Seq → Prop
  | .idle => False
  | .validate => False
  | .copyIn k => i.isTransform = true ∧ k ≤ n
  | .bitRev k => i.isTransform = true ∧ k ≤ n
  | .fftStage s g p phase =>
    i.isFft = true ∧ (∃ t, s = 2 ^ t) ∧ s < n ∧
      (match phase with
        | .setup   => g = 0 ∧ p = 0
        | .pair    => g < s ∧ p < n ∧ p % (2 * s) = g
        | .advance => g < s ∧ n ≤ p ∧ p < 2 * n)
  | .scaleN k => i = .fftInv ∧ k ≤ n
  | .htTable k => i = .fht ∧ k ≤ n / 2
  | .htRot level g a b =>
    i = .fht ∧ (∃ t, level = 2 ^ (t + 1)) ∧ level ≤ n ∧ level ∣ g ∧ g < n ∧ 1 ≤ a ∧ a < b ∧ a + b = level / 2
  | .htAddSub level g a => i = .fht ∧ (∃ t, level = 2 ^ (t + 1)) ∧ level ≤ n ∧ level ∣ g ∧ g < n ∧ a < level / 2
  | .htNorm k => i = .fht ∧ k ≤ n
  | .elementwise k => i.isTransform = false ∧ k ≤ n
  | .complete => True

/-- Where the sequencer may be: idle, at validation, or at a position of the legal command it has accepted with a length
that passed validation (30_encoding R80, R81). -/
def State.positionOk (s : State) : Prop :=
  s.seq = .idle ∨ s.seq = .validate ∨
    ∃ i : Instr, s.cmd = some (encode i) ∧ validateLength i s.nAct.toNat = none ∧ s.seq.okFor i s.nAct.toNat

/-- The error kinds the core raises (60_exceptions R170, R174). -/
def ErrorKind.raised : ErrorKind → Bool
  | .none              => false
  | .invalidShape      => false
  | .invalidLength     => true
  | .typeMismatch      => false
  | .resourceExhausted => true
  | .illegalCommand    => true

/-- Every internal integer fits its IDXW bits (00_scope R16, 10_state R29, R31, R33). -/
def Regs.inRange {F : Type} (r : Regs F) : Prop :=
  r.sStep < 2 ^ Config.idxWidth ∧ r.jump < 2 ^ Config.idxWidth ∧ r.level < 2 ^ Config.idxWidth ∧
  r.scale < 2 ^ Config.idxWidth ∧ r.g < 2 ^ Config.idxWidth ∧ r.p < 2 ^ Config.idxWidth ∧ r.i < 2 ^ Config.idxWidth ∧
  r.j < 2 ^ Config.idxWidth ∧ r.k < 2 ^ Config.idxWidth

/-- The loop registers hold what the pseudocode has assigned when the sequencer stands at a position (10_state R29, R31,
R33, R35; 42 R112; 43 R133, R134). At Setup G and P are not assigned yet. -/
def Regs.follow {F : Type} (n : Nat) (r : Regs F) : Seq → Prop
  | .idle => True
  | .validate => True
  | .copyIn _ => True
  | .bitRev _ => True
  | .fftStage s g p phase =>
    r.sStep = s ∧
      (match phase with
        | .setup   => True
        | .pair    => r.jump = 2 * s ∧ r.g = g ∧ r.p = p
        | .advance => r.jump = 2 * s ∧ r.g = g ∧ r.p = p)
  | .scaleN _ => r.sStep = n ∧ r.jump = n
  | .htTable _ => True
  | .htRot level g a b => r.level = level ∧ r.scale = n / level ∧ r.g = g ∧ r.i = a ∧ r.j = b
  | .htAddSub level g _ => r.level = level ∧ r.scale = n / level ∧ r.g = g
  | .htNorm _ => r.level = 2 * n ∧ r.scale = 0 ∧ r.g = n
  | .elementwise _ => True
  | .complete => True

/-- The loop registers of a core follow its position. -/
def State.registersFollow (s : State) : Prop := s.regs.follow s.nAct.toNat s.seq

/-- The invariant. -/
structure State.Inv (s : State) : Prop where
  /-- Memory is in its canonical form. -/
  memSorted : s.mem.wf
  /-- Only bytes of SRC and DST are stored (20_memory R50, R52). -/
  memInWindows : ∀ c ∈ s.mem, Memory.inWindow .src c.1 = true ∨ Memory.inWindow .dst c.1 = true
  /-- A lane holds a value as a whole or not at all (10_state R38, 20_memory R55). -/
  lanesWhole : ∀ a, a % 8 = 0 → ∀ j, j < 8 → (s.mem.readByte (a + j)).isSome = (s.mem.readByte a).isSome
  /-- BUSY is exactly not idle (10_state R35). -/
  busyWhenRunning : s.status.state = .busy ↔ s.seq ≠ .idle
  /-- CMD holds a word exactly while a command is in flight (10_state R21, R40). -/
  cmdWhenRunning : s.cmd.isSome = true ↔ s.seq ≠ .idle
  /-- The latched operands are the accepted word's (30_encoding R80). -/
  latched : ∀ w, s.cmd = some w → s.opAct = w.extractLsb' 0 4 ∧ s.dAct = directionOf (w.extractLsb' 4 1) ∧
    s.status.opl = w.extractLsb' 0 4 ∧ s.status.dirl = w.extractLsb' 4 1
  /-- ERR is not 0 exactly in ERROR, and then a kind the core raises (10_state R23, 60_exceptions R170, R174). -/
  errWhenError : (s.status.state ≠ .error → s.status.err = .none) ∧ (s.status.state = .error → s.status.err.raised = true)
  /-- RLEN is 0 unless DONE, and never above the capacity (10_state R24). -/
  rlenWhenDone : (s.status.state ≠ .done → s.rlen = 0) ∧ s.rlen.toNat ≤ Config.nmax
  /-- The tables have NMAX/2 entries (10_state R30). -/
  tables : s.regs.htC.length = Config.nmax / 2 ∧ s.regs.htS.length = Config.nmax / 2
  counters : s.regs.inRange
  position : s.positionOk

/-- The slot a wrapper access presents, if the wrapper accepts it (20_memory R54). -/
def slotAt (width addr : Nat) : Option Slot := busSlot Config.base width addr

/-- A host write of LEN, by either port (20_memory R51, R52). -/
def writesLen : Event → Bool
  | .turn      => false
  | .command _ => false
  | .reset _   => false
  | .host t    =>
    match t with
    | .writeReg r _          => r == 1
    | .readReg _             => false
    | .writeBuf _ _ _        => false
    | .readBuf _ _ _         => false
    | .busWrite width addr _ => slotAt width addr == some (.reg 1)
    | .busRead _ _           => false

/-- A host write of SRC[k].l, by either port (20_memory R51, R52). -/
def writesSrc (k : Nat) (l : Lane) : Event → Bool
  | .turn      => false
  | .command _ => false
  | .reset _   => false
  | .host t    =>
    match t with
    | .writeReg _ _          => false
    | .readReg _             => false
    | .writeBuf k' l' _      => k' == k && l' == l
    | .readBuf _ _ _         => false
    | .busWrite width addr _ => slotAt width addr == some (.lane .src k l)
    | .busRead _ _           => false

/-- A host write of CMD, by either port, or one run to its end (10_state R21). -/
def writesCmd : Event → Bool
  | .turn      => false
  | .command _ => true
  | .reset _   => false
  | .host t    =>
    match t with
    | .writeReg r _          => r == 0
    | .readReg _             => false
    | .writeBuf _ _ _        => false
    | .readBuf _ _ _         => false
    | .busWrite width addr _ => slotAt width addr == some (.reg 0)
    | .busRead _ _           => false

/-- A reset. -/
def isReset : Event → Bool
  | .turn      => false
  | .command _ => false
  | .reset _   => true
  | .host _    => false

/-- Every byte outside DST's window is the same in two memories. -/
def Memory.sameOutsideDst (m m' : Memory) : Prop :=
  ∀ a, Memory.inWindow .dst a = false → Memory.readByte m' a = Memory.readByte m a

/-- What a completed command leaves of the state that is neither memory, nor the units' registers, nor a free value's
index (30_encoding R80, R82): the new STATUS, RLEN and latched operands, everything else as it was. That the latched
operands are kept past completion is log 21. Nothing is said of what CMD holds (log 9). -/
structure State.doneFrame (i : Instr) (s t : State) : Prop where
  status  : t.status = ⟨.done, .none, i.fields.op, i.fields.dir⟩
  rlen    : t.rlen = s.len
  len     : t.len = s.len
  seq     : t.seq = .idle
  opAct   : t.opAct = i.fields.op
  dAct    : t.dAct = directionOf i.fields.dir
  nAct    : t.nAct = s.len
  srcSeed : t.srcSeed = s.srcSeed
  events  : t.events = s.events
  resp    : t.resp = s.resp

/-- What a refused word leaves (60_exceptions R170, R175, R178): STATUS, RLEN and the latched operands of its acceptance
and refusal, everything else as it was. Nothing is said of what CMD holds (log 9). -/
structure State.refusedFrame (w : Word) (k : ErrorKind) (s t : State) : Prop where
  status  : t.status = ⟨.error, k, w.extractLsb' 0 4, w.extractLsb' 4 1⟩
  rlen    : t.rlen = 0
  len     : t.len = s.len
  mem     : t.mem = s.mem
  regs    : t.regs = s.regs
  seq     : t.seq = .idle
  opAct   : t.opAct = w.extractLsb' 0 4
  dAct    : t.dAct = directionOf (w.extractLsb' 4 1)
  nAct    : t.nAct = s.len
  draw    : t.draw = s.draw
  srcSeed : t.srcSeed = s.srcSeed
  dstSeed : t.dstSeed = s.dstSeed
  events  : t.events = s.events
  resp    : t.resp = s.resp

/-- DST holds values in exactly its first n elements (10_state R27, R38). -/
def State.resultLength (n : Nat) (t : State) : Prop :=
  ∀ k l, k < Config.nmax → (t.specified k l = true ↔ k < n)

/-- The input sequence of a command (10_state R26): the pairs of SRC by index. -/
def State.input (s : State) (k : Nat) : F64 × F64 := (s.src k .re, s.src k .im)

/-- Every byte outside the lanes (k, l) of DST for k in ks and l in ls is the same in two memories. -/
def Memory.sameOutsideLanes (ks : List Nat) (ls : List Lane) (m m' : Memory) : Prop :=
  ∀ a, (∀ k ∈ ks, ∀ l ∈ ls, ¬(Memory.offset .dst k l ≤ a ∧ a < Memory.offset .dst k l + 8)) →
    Memory.readByte m' a = Memory.readByte m a

end Sys2Proof.Machine
end

