-- ==== Sys2Proof/Certificates/Slice0/Obligations.lean ====
section
/-! DEFINITION. The statements for the provers, from the rules of spec/. Each docstring names the rule or section it
formalises and, where a clause rests on the model's own choice, the log entry. A NaN is compared by being a NaN
(`SameValue`, 00_scope R9); the index 0 given to a rounded operation there stands for any. -/

open Sys2Proof Sys2Proof.Machine

/-! ### Encoding and decoding -/

/-- The words of the table of 30_encoding R72 and the illegal words V-DEC-6 to V-DEC-14 of 95, part 2.1. -/
def Obligations.SpecWordsDecodeToTheirCommands : Prop :=
  decode 0x00000001 = .ok .fftFwd ∧ decode 0x00000011 = .ok .fftInv ∧ decode 0x00000002 = .ok .fht ∧
  decode 0x00000003 = .ok .mag ∧ decode 0x00000004 = .ok .phase ∧
  (∀ w ∈ [0x00000000#32, 0x00000005#32, 0x0000000F#32, 0x00000012#32, 0x00000013#32, 0x00000014#32, 0x00000010#32,
      0x00000021#32, 0x80000001#32, 0xFFFFFFFF#32], (decode w).toOption = none) ∧
  decodeSlot [0x11, 0x00, 0x00, 0x00, 0xAA, 0xBB, 0xCC, 0xDD] = some (.ok .fftInv)

/-- 30_encoding R75: the decode function, case for case, on the word as a number. -/
def Obligations.DecodeFollowsTheSpecCascade : Prop :=
  ∀ w : Word, (decode w).toOption =
    if w.toNat / 32 ≠ 0 then none
    else if w.toNat % 16 = 1 then (if w.toNat / 16 % 2 = 0 then some .fftFwd else some .fftInv)
    else if w.toNat / 16 % 2 = 1 then none
    else if w.toNat % 16 = 2 then some .fht
    else if w.toNat % 16 = 3 then some .mag
    else if w.toNat % 16 = 4 then some .phase
    else none

/-- Decode and encode agree, both ways (30_encoding, sections 1 to 4): every command's word decodes to it, and a word
that decodes to a command is that command's word, so that exactly five words are legal. -/
def Obligations.ExactlyFiveWordsAreLegal : Prop :=
  (∀ i : Instr, i.wellFormed = true ∧ decode (encode i) = .ok i) ∧
  (∀ w i, decode w = .ok i → w = encode i) ∧
  (∀ w : Word, (∃ i, decode w = .ok i) ↔
    w = 0x00000001#32 ∨ w = 0x00000011#32 ∨ w = 0x00000002#32 ∨ w = 0x00000003#32 ∨ w = 0x00000004#32)

/-- The fields of a word and the word of some fields are inverse to each other, so no bit is dropped, and a word decodes
to a command exactly when its fields are well formed (30_encoding, sections 1 and 4). -/
def Obligations.FieldsAndWordsAreOneToOne : Prop :=
  (∀ f : Fields, fieldsOf (wordOf f) = f) ∧ (∀ w : Word, wordOf (fieldsOf w) = w) ∧
  (∀ w : Word, (fieldsOf w).wellFormed = (decode w).toOption.isSome)

/-! ### Acceptance, validation, refusal -/

/-- 30_encoding R80: what a host write of any word to CMD does to a core that is not BUSY, the nine writes, and nothing
else of the spec's state; from then on the host is locked out. What CMD holds is log 9 and not claimed here. -/
def Obligations.AcceptanceWrites : Prop :=
  ∀ (w : Word) (s : State), s.busy = false →
    let t := s.writeReg 0 w
    t.status.opl = w.extractLsb' 0 4 ∧ t.status.dirl = w.extractLsb' 4 1 ∧ t.status.err = .none ∧
    t.status.state = .busy ∧ t.rlen = 0 ∧ t.opAct = w.extractLsb' 0 4 ∧
    t.dAct = (if w.toNat / 16 % 2 = 0 then .forward else .inverse) ∧ t.nAct = s.len ∧ t.seq = .validate ∧
    t.len = s.len ∧ t.mem = s.mem ∧ t.regs = s.regs ∧ t.srcSeed = s.srcSeed ∧ t.dstSeed = s.dstSeed ∧ t.draw = s.draw ∧
    (∀ u : State, u.busy = true →
      (∀ r v, u.writeReg r v = u) ∧ (∀ k l x, u.writeBuf k l x = u))

/-- 30_encoding R74, 60_exceptions R173: which words are illegal, and that an illegal word is accepted and then refused
with IllegalCommand whatever LEN holds, with no buffer or unit register touched: in one step, and by acceptance and one
turn of the sequencer. -/
def Obligations.IllegalWordsAreRefused : Prop :=
  ∀ w : Word,
    ((decode w).toOption = none ↔
      w.toNat / 32 ≠ 0 ∨ w.toNat % 16 = 0 ∨ 5 ≤ w.toNat % 16 ∨ (w.toNat / 16 % 2 = 1 ∧ w.toNat % 16 ≠ 1)) ∧
    ∀ s : State, (decode w).toOption = none → s.busy = false →
      (∃ t, issue w s = .next t ∧ s.refusedFrame w .illegalCommand t ∧ (s.writeReg 0 w).turn = t)

/-- 60_exceptions R171, R172, R176: which commands are refused and with which kind, IllegalCommand whatever LEN holds,
InvalidLength before ResourceExhausted, and that the same command with the same LEN is refused again. -/
def Obligations.RefusedCommandsAndTheirKinds : Prop :=
  ∀ (i : Instr) (s : State), s.busy = false →
    let n := s.len.toNat
    let invalid : Prop := match i with
      | .fftFwd => n < 2 ∨ ¬∃ m, n = 2 ^ m
      | .fftInv => n < 2 ∨ ¬∃ m, n = 2 ^ m
      | .fht    => n % 2 = 1 ∨ ¬∃ m, n = 2 ^ m
      | .mag    => False
      | .phase  => False
    (invalid → ∃ t, exec i s = .next t ∧ s.refusedFrame (encode i) .invalidLength t) ∧
    (¬invalid → Config.nmax < n →
      ∃ t, exec i s = .next t ∧ s.refusedFrame (encode i) .resourceExhausted t ∧
        ∃ u, exec i t = .next u ∧ t.refusedFrame (encode i) .resourceExhausted u) ∧
    (¬invalid → n ≤ Config.nmax → ∃ t, exec i s = .next t ∧ t.status.state = .done) ∧
    (∀ w, (decode w).toOption = none → ∃ t, issue w s = .next t ∧ s.refusedFrame w .illegalCommand t)

/-- A command issued while BUSY is ignored (10_state, section 2): nothing of the state changes. -/
def Obligations.BusyCoreIgnoresCommands : Prop :=
  ∀ s : State, s.busy = true → (∀ i, exec i s = .next s) ∧ (∀ w, issue w s = .next s)

/-- The completing micro-operation (30_encoding, section 6): RLEN, STATE and SEQ are written, and every other field of the
state but the CMD latch is as it was: ERR, OPL, DIRL, LEN, the latched operands, memory, and the units' registers (log 21).
What CMD holds is log 9 and not claimed here. -/
def Obligations.CompletionWrites : Prop :=
  ∀ s : State, s.seq = .complete →
    s.turn.rlen = s.nAct ∧ s.turn.status = { s.status with state := .done } ∧ s.turn.seq = .idle ∧
    s.turn.len = s.len ∧ s.turn.mem = s.mem ∧ s.turn.regs = s.regs ∧ s.turn.opAct = s.opAct ∧ s.turn.dAct = s.dAct ∧
    s.turn.nAct = s.nAct ∧ s.turn.srcSeed = s.srcSeed ∧ s.turn.dstSeed = s.dstSeed ∧ s.turn.draw = s.draw ∧
    s.turn.events = s.events ∧ s.turn.resp = s.resp

/-! ### The host port -/

/-- 10_state R23 and R39: the fields of STATUS as the host reads it, ERR 0 outside ERROR, what busy and done say, and
that STATUS stays until a command is accepted or a reset. -/
def Obligations.StatusWordFields : Prop :=
  ∀ s : State, s.Inv →
    let v := s.regValue 2
    v.extractLsb' 0 2 = (match s.status.state with
      | .idle => 0#2 | .busy => 1#2 | .done => 2#2 | .error => 3#2) ∧
    v.extractLsb' 2 2 = 0 ∧ v.extractLsb' 7 1 = 0 ∧ v.extractLsb' 13 19 = 0 ∧
    v.extractLsb' 4 3 = (match s.status.err with
      | .none => 0#3 | .invalidShape => 1#3 | .invalidLength => 2#3 | .typeMismatch => 3#3
      | .resourceExhausted => 4#3 | .illegalCommand => 5#3) ∧
    v.extractLsb' 8 4 = s.status.opl ∧ v.extractLsb' 12 1 = s.status.dirl ∧
    (s.status.state ≠ .error → v.extractLsb' 4 3 = 0) ∧
    (s.busy = true ↔ v.extractLsb' 0 2 = 1) ∧ (s.done = true ↔ v.extractLsb' 0 2 = 2 ∨ v.extractLsb' 0 2 = 3) ∧
    (∀ ev t, s.busy = false → writesCmd ev = false → isReset ev = false → happen ev s = .next t → t.status = s.status) ∧
    Status.reset.word = 0

/-- 20_memory R51: the table of the four transactions, row by row. Ignored means that nothing changes but the port's
answer (log 17); the read of DST while BUSY has an unspecified value, so nothing is said of it. -/
def Obligations.HostTransactionsFollowTheTable : Prop :=
  ∀ s : State, s.Inv →
    (s.busy = false →
      (∀ w, s.transact (.writeReg 0 w) = (s.accept w).answer .written) ∧
      (∀ v, s.transact (.writeReg 1 v) = { s with len := v, resp := .written }) ∧
      (∀ r v, 2 ≤ r → s.transact (.writeReg r v) = { s with resp := .written }) ∧
      (∀ k l x, k < Config.nmax →
        let t := s.transact (.writeBuf k l x)
        t.src k l = x ∧ t.written k l = true ∧
        (∀ k' l', k' < Config.nmax → ¬(k' = k ∧ l' = l) →
          t.src k' l' = s.src k' l' ∧ t.written k' l' = s.written k' l') ∧
        (∀ k' l', k' < Config.nmax → t.dst k' l' = s.dst k' l') ∧
        t = { s with mem := t.mem, resp := .written }) ∧
      (∀ k l, k < Config.nmax → s.transact (.readBuf .dst k l) = { s with resp := .lane (s.dst k l) })) ∧
    (s.busy = true →
      (∀ r v, s.transact (.writeReg r v) = { s with resp := .written }) ∧
      (∀ k l x, s.transact (.writeBuf k l x) = { s with resp := .written }) ∧
      (∀ k l, ∃ x, s.transact (.readBuf .dst k l) =
        { s with resp := .lane x, draw := (s.transact (.readBuf .dst k l)).draw }) ∧
      (s.regValue 2).extractLsb' 0 2 = 1 ∧ s.regValue 3 = 0) ∧
    s.transact (.readReg 0) = { s with resp := .reg 0 } ∧
    s.transact (.readReg 1) = { s with resp := .reg s.len } ∧
    s.transact (.readReg 2) = { s with resp := .reg s.status.word } ∧
    s.transact (.readReg 3) = { s with resp := .reg s.rlen } ∧
    s.transact (.readReg 4) = { s with resp := .reg (BitVec.ofNat 32 Config.nmax) } ∧
    (∀ r, 5 ≤ r → s.transact (.readReg r) = { s with resp := .reg 0 }) ∧
    (∀ k l, k < Config.nmax → s.transact (.readBuf .src k l) = { s with resp := .lane (s.src k l) }) ∧
    (∀ k l x, Config.nmax ≤ k → s.transact (.writeBuf k l x) = { s with resp := .written }) ∧
    (∀ sp k l, Config.nmax ≤ k → s.transact (.readBuf sp k l) = { s with resp := .lane 0 })

/-- 20_memory R52, R54: the byte map relative to BASE, and the one access shape the wrapper accepts. -/
def Obligations.BusAccessShapeAndMap : Prop :=
  let B := 16 * Config.nmax
  Config.base % (64 * Config.nmax) = 0 ∧
  ∀ s : State,
    (∀ r v, r ≤ 4 →
      s.transact (.busWrite 8 (Config.base + 8 * r) v) = s.transact (.writeReg r (v.extractLsb' 0 32)) ∧
      s.transact (.busRead 8 (Config.base + 8 * r)) = { s with resp := .bus ((s.regValue r).setWidth 64) }) ∧
    (∀ k v, k < Config.nmax →
      s.transact (.busWrite 8 (Config.base + B + 16 * k) v) = s.transact (.writeBuf k .re v) ∧
      s.transact (.busWrite 8 (Config.base + B + 16 * k + 8) v) = s.transact (.writeBuf k .im v) ∧
      s.transact (.busWrite 8 (Config.base + 2 * B + 16 * k) v) = { s with resp := .written } ∧
      s.transact (.busWrite 8 (Config.base + 2 * B + 16 * k + 8) v) = { s with resp := .written } ∧
      s.transact (.busRead 8 (Config.base + B + 16 * k)) = { s with resp := .bus (s.src k .re) } ∧
      s.transact (.busRead 8 (Config.base + B + 16 * k + 8)) = { s with resp := .bus (s.src k .im) } ∧
      (s.busy = false →
        s.transact (.busRead 8 (Config.base + 2 * B + 16 * k)) = { s with resp := .bus (s.dst k .re) } ∧
        s.transact (.busRead 8 (Config.base + 2 * B + 16 * k + 8)) = { s with resp := .bus (s.dst k .im) })) ∧
    (∀ o v, o % 8 = 0 → (0x28 ≤ o ∧ o < B) ∨ (3 * B ≤ o ∧ o < 4 * B) →
      s.transact (.busWrite 8 (Config.base + o) v) = { s with resp := .written } ∧
      s.transact (.busRead 8 (Config.base + o)) = { s with resp := .bus 0 }) ∧
    (∀ width addr v, (width ≠ 8 ∨ addr % 8 ≠ 0 ∨ addr < Config.base ∨ Config.base + 4 * B ≤ addr) →
      s.transact (.busWrite width addr v) = { s with resp := .busError } ∧
      s.transact (.busRead width addr) = { s with resp := .busError })

/-- 20_memory R53: little-endian. Byte j of a stored lane holds bits [8j+7 : 8j] of the word, a lane reads as the word of
its eight bytes, and storing a lane changes no other byte. -/
def Obligations.StoredLaneIsLittleEndian : Prop :=
  ∀ (m : Memory) (a : Nat),
    (∀ (x : F64) j, j < 8 → (m.writeLane a x).readByte (a + j) = some (x.extractLsb' (8 * j) 8)) ∧
    (∀ (x : F64), m.readLane a = some x ↔ ∀ j, j < 8 → m.readByte (a + j) = some (x.extractLsb' (8 * j) 8)) ∧
    (∀ (x : F64) b, b < a ∨ a + 8 ≤ b → (m.writeLane a x).readByte b = m.readByte b)

/-- 70_reset R194: whatever happens short of a reset, LEN and every lane of SRC change only by a host write of that
location. No invariant is assumed: this holds of every state. -/
def Obligations.CallerDataIsKept : Prop :=
  ∀ (n : Nat) (s t : State), Host.Core.run core n s = .next t → (∀ ev ∈ s.events, isReset ev = false) →
    ((∀ ev ∈ s.events, writesLen ev = false) → t.len = s.len) ∧
    (∀ k l, k < Config.nmax → (∀ ev ∈ s.events, writesSrc k l ev = false) →
      t.src k l = s.src k l ∧ t.written k l = s.written k l)

/-- The result stays until the next command or reset (20_memory, sections 4 and 5, the acquire at completion): in a core
that is not BUSY, STATUS, RLEN and all of DST. -/
def Obligations.ResultsStayUntilTheNextCommand : Prop :=
  ∀ (n : Nat) (s t : State), s.Inv → s.busy = false → Host.Core.run core n s = .next t →
    (∀ ev ∈ s.events, isReset ev = false ∧ writesCmd ev = false) →
    t.status = s.status ∧ t.rlen = s.rlen ∧
    (∀ k l, k < Config.nmax → t.dst k l = s.dst k l ∧ t.specified k l = s.specified k l)

/-- The host's writes before a command reach it (20_memory, section 5, the release at issue; 30_encoding, section 5): the
input part of a macro leaves the pairs in SRC and the length in LEN. -/
def Obligations.HostWritesReachTheCore : Prop :=
  ∀ (s : State) (x : List (F64 × F64)) (rest : List Event), s.busy = false → x.length ≤ Config.nmax →
    s.events = ((writePairs x ++ [HostStmt.wlen (BitVec.ofNat 32 x.length)]).flatMap HostStmt.events) ++ rest →
    ∃ t, Host.Core.run core (2 * x.length + 1) s = .next t ∧ t.events = rest ∧ t.len.toNat = x.length ∧
      t.status = s.status ∧ t.busy = false ∧
      (∀ k p, x[k]? = some p → t.src k .re = p.1 ∧ t.src k .im = p.2 ∧ t.written k .re = true ∧ t.written k .im = true) ∧
      (∀ k l, k < Config.nmax → t.dst k l = s.dst k l ∧ (x.length ≤ k → t.src k l = s.src k l))

/-! ### Reset, steps, invariant -/

/-- 10_state R40, 70_reset R190: what reset leaves, whatever the state (BUSY or not) and whatever transaction is
presented with it. The values the spec leaves unspecified are not claimed (logs 7, 8). -/
def Obligations.ResetGivesTheResetState : Prop :=
  (∀ (s : State) (presented : Option HostTx), ∃ t, happen (.reset presented) s = .next t ∧
    t.status.word = 0 ∧ t.status.state = .idle ∧ t.len = 0 ∧ t.rlen = 0 ∧ t.cap = 0x400#32 ∧ t.cmd = none ∧
    t.seq = .idle ∧ t.busy = false ∧ t.done = false ∧ t.events = s.events ∧
    (∀ k l, t.written k l = false ∧ t.specified k l = false)) ∧
  State.reset.status.word = 0 ∧ State.reset.len = 0 ∧ State.reset.rlen = 0 ∧ State.reset.cap = 0x400#32 ∧
  State.reset.cmd = none ∧ State.reset.seq = .idle ∧ State.reset.busy = false ∧ State.reset.done = false ∧
  (∀ k l, State.reset.written k l = false ∧ State.reset.specified k l = false)

/-- The invariant holds at reset. -/
def Obligations.ResetStateMeetsInvariant : Prop := State.reset.Inv

/-- Every step from a state with the invariant answers a next state, and that state has it too: memory stays in its
canonical form and in the buffers' windows (20_memory, section 3), BUSY is exactly not idle and SEQ is a position the
loop nests reach (10_state, section 6; g and p of a Setup are log 18), the latched operands are the accepted word's
(10_state, section 4), ERR and RLEN read as 10_state, section 2 says, every counter fits IDXW bits (00_scope, section 8),
the tables keep their size. -/
def Obligations.EveryStepKeepsInvariant : Prop :=
  ∀ s : State, s.Inv → ∃ t, Machine.step s = .next t ∧ t.Inv

/-- The loop registers hold what the pseudocode assigns (10_state, section 4; 42_fft, section 1; 43_hartley, section 1):
they follow the position of the sequencer at every step, in which turn an assignment falls being log 18; and after the
ladder SCALE is 0, LEVEL 2N and G N, after the stages S_STEP and JUMP are N. -/
def Obligations.LoopRegistersFollowThePseudocode : Prop :=
  State.reset.registersFollow ∧
  (∀ s t : State, s.Inv → s.registersFollow → Machine.step s = .next t → t.registersFollow) ∧
  ∀ (m srcSeed dstSeed : Nat) (dir : Direction) (w : Work Memory F64), 1 ≤ m →
    let n := 2 ^ m
    let e := bufferEnv coreNum srcSeed dstSeed
    let u := (ladder e n w).regs
    let v := (fftCore e dir n w).regs
    u.scale = 0 ∧ u.level = 2 * n ∧ u.g = n ∧ v.sStep = n ∧ v.jump = n

/-- A step whose event is the issue of a word is exec of the command the word decodes to, on the state without the event
and with the port's answer set (logs 10, 11, 17); and a word placed by withFetchWord is so run by the very next step
(log 12). -/
def Obligations.StepRunsTheDecodedCommand : Prop :=
  (∀ (s : State) (w : Word) (es : List Event) (i : Instr), s.events = .command w :: es → decode w = .ok i →
    Machine.step s = exec i { s with events := es, resp := .written }) ∧
  (∀ (s : State) (w : Word) (es : List Event), s.events = .command w :: es → (decode w).toOption = none →
    Machine.step s = runIllegal w { s with events := es, resp := .written }) ∧
  (∀ (s : State) (nbits w : Nat) (i : Instr), decodeTableWord nbits w = some i →
    Machine.step (s.withFetchWord nbits w) = exec i { s.ready with resp := .written })

/-- Every step takes exactly the first event, if there is one, else it is the sequencer's turn; no step stops (log 10). -/
def Obligations.StepTakesOneEvent : Prop :=
  ∀ s : State, ∃ t, Machine.step s = .next t ∧ t.events = s.events.tail ∧
    (s.events = [] → t = s.turn) ∧
    (∀ ev evs, s.events = ev :: evs → happen ev { s with events := evs } = .next t)

/-- The collapsed command is what the sequencer does one micro-operation at a time (10_state, section 6): from acceptance,
some number of turns ends in the very state that exec answers, in every field. -/
def Obligations.MicroStepsAgreeWithCommands : Prop :=
  ∀ (i : Instr) (s : State), s.busy = false →
    ∃ (n : Nat) (t : State), exec i s = .next t ∧ (s.writeReg 0 (encode i)).turns n = t ∧ t.busy = false

/-- Termination and progress (70_reset, section 4): a BUSY core needs finitely many turns of its own, however many host
transactions come between them, to be DONE or in ERROR. -/
def Obligations.BusyCoreFinishes : Prop :=
  ∀ s : State, s.Inv → s.busy = true → ∃ bound : Nat, ∀ evs : List Event,
    (∀ ev ∈ evs, isReset ev = false) → bound ≤ evs.count .turn →
    ∃ (n : Nat) (t : State), n ≤ evs.length ∧ Host.Core.run core n { s with events := evs } = .next t ∧ t.done = true

/-! ### What the commands do -/

/-- Determinism and lifetime (70_reset, section 3; 10_state, section 6): STATUS, RLEN and the result depend on the word,
LEN and the lanes of SRC that the command reads, and on nothing else of the state. -/
def Obligations.CommandsDoNotDependOnTheRest : Prop :=
  ∀ (w : Word) (s s' : State), s.Inv → s'.Inv → s.busy = false → s'.busy = false → s.len = s'.len →
    (∀ k, k < s.len.toNat → k < Config.nmax →
      s.src k .re = s'.src k .re ∧ (decode w ≠ .ok .fht → s.src k .im = s'.src k .im)) →
    ∃ t t', issue w s = .next t ∧ issue w s' = .next t' ∧ t.status = t'.status ∧ t.rlen = t'.rlen ∧
      ∀ k l, k < t.rlen.toNat → Float64.SameValue (t.dst k l) (t'.dst k l)

/-- The command on the buffers of a core computes what the procedure of its rule computes on the bare sequence in SRC
(42_fft, section 2; 43_hartley, section 2; 44_spectral, section 2). -/
def Obligations.CommandsComputeOnSequences : Prop :=
  ∀ (s : State), s.busy = false →
    let n := s.len.toNat
    let agrees := fun (i : Instr)
        (proc : Env (Nat → F64 × F64) F64 → Nat → Work (Nat → F64 × F64) F64 → Work (Nat → F64 × F64) F64) =>
      ∃ t, exec i s = .next t ∧ t.status.state = .done ∧
        ∀ k, k < n →
          Float64.SameValue (t.dst k .re) (resultOf coreNum s.regs proc n s.input k).1 ∧
          Float64.SameValue (t.dst k .im) (resultOf coreNum s.regs proc n s.input k).2
    ((∃ m, 1 ≤ m ∧ m ≤ Config.log2Nmax ∧ n = 2 ^ m) →
      agrees .fftFwd fftForward ∧ agrees .fftInv fftInverse ∧ agrees .fht hartley) ∧
    (n ≤ Config.nmax → agrees .mag magnitude ∧ agrees .phase phases)

/-- FFT.FWD and FFT.INV complete on every length 2, 4, …, NMAX, and their frame (42_fft, section 2): only the new STATUS,
RLEN and latched operands, DST, and of the units' registers the twiddle and stage registers and the loop counters. That a
register the procedure does not write is as before also after completion, and what the latched operands hold there, is log
21. -/
def Obligations.FftCompletes : Prop :=
  ∀ (i : Instr) (s : State) (m : Nat), i = .fftFwd ∨ i = .fftInv → s.busy = false → 1 ≤ m → m ≤ Config.log2Nmax →
    s.len.toNat = 2 ^ m →
    ∃ t, exec i s = .next t ∧ s.doneFrame i t ∧ Memory.sameOutsideDst s.mem t.mem ∧ t.resultLength (2 ^ m) ∧
      (∀ k l, k < Config.nmax → t.src k l = s.src k l) ∧
      t.regs.htC = s.regs.htC ∧ t.regs.htS = s.regs.htS ∧ t.regs.level = s.regs.level ∧
      t.regs.scale = s.regs.scale ∧ t.regs.rootN = s.regs.rootN

/-- FHT completes on every length 2, 4, …, NMAX, its imaginary lanes are +0, and its frame (43_hartley, section 2): the
twiddle and stage registers and P are not touched. What it says of ROOTN, of the tables and of the units' registers after
completion is the model's choice (log 21): there the spec allows them any value. -/
def Obligations.FhtCompletes : Prop :=
  ∀ (s : State) (m : Nat), s.busy = false → 1 ≤ m → m ≤ Config.log2Nmax → s.len.toNat = 2 ^ m →
    ∃ t, exec .fht s = .next t ∧ s.doneFrame .fht t ∧ Memory.sameOutsideDst s.mem t.mem ∧ t.resultLength (2 ^ m) ∧
      (∀ k l, k < Config.nmax → t.src k l = s.src k l) ∧
      (∀ k, k < 2 ^ m → t.dst k .im = 0) ∧
      t.regs.rootN = Float64.sqrt 0 (Float64.fromNat (2 ^ m)) ∧
      (∀ k, 2 ^ m / 2 ≤ k → t.regs.htC[k]? = s.regs.htC[k]? ∧ t.regs.htS[k]? = s.regs.htS[k]?) ∧
      t.regs.twRe = s.regs.twRe ∧ t.regs.twIm = s.regs.twIm ∧ t.regs.mulRe = s.regs.mulRe ∧
      t.regs.mulIm = s.regs.mulIm ∧ t.regs.sStep = s.regs.sStep ∧ t.regs.jump = s.regs.jump ∧
      t.regs.piD = s.regs.piD ∧ t.regs.delta = s.regs.delta ∧ t.regs.sine = s.regs.sine ∧ t.regs.p = s.regs.p

/-- MAG, on every length up to NMAX, odd or even, 0 included, and its frame; ResourceExhausted above (44_spectral, section
2; 30_encoding, section 6). That of the units' registers only K differs after completion, and what the latched operands
hold there, is the model's choice (log 21): there the spec allows any value. -/
def Obligations.MagCompletes : Prop :=
  encode .mag = 0x00000003#32 ∧
  ∀ s : State, s.busy = false →
    (s.len.toNat ≤ Config.nmax →
      ∃ t, exec .mag s = .next t ∧ s.doneFrame .mag t ∧ Memory.sameOutsideDst s.mem t.mem ∧
        t.resultLength s.len.toNat ∧ (∀ k l, k < Config.nmax → t.src k l = s.src k l) ∧
        t.regs = { s.regs with k := t.regs.k } ∧
        ∀ k, k < s.len.toNat →
          Float64.SameValue (t.dst k .re) (magE coreNum 0 (s.src k .re) (s.src k .im)) ∧ t.dst k .im = 0) ∧
    (Config.nmax < s.len.toNat → ∃ t, exec .mag s = .next t ∧ s.refusedFrame 0x00000003#32 .resourceExhausted t)

/-- PHASE, on every length up to NMAX, odd or even, 0 included, and its frame; ResourceExhausted above (44_spectral,
section 2; 30_encoding, section 6). That of the units' registers only K differs after completion, and what the latched operands
hold there, is the model's choice (log 21): there the spec allows any value. -/
def Obligations.PhaseCompletes : Prop :=
  encode .phase = 0x00000004#32 ∧
  ∀ s : State, s.busy = false →
    (s.len.toNat ≤ Config.nmax →
      ∃ t, exec .phase s = .next t ∧ s.doneFrame .phase t ∧ Memory.sameOutsideDst s.mem t.mem ∧
        t.resultLength s.len.toNat ∧ (∀ k l, k < Config.nmax → t.src k l = s.src k l) ∧
        t.regs = { s.regs with k := t.regs.k } ∧
        ∀ k, k < s.len.toNat →
          Float64.SameValue (t.dst k .re) (coreNum.atan2 (s.src k .re) (s.src k .im)) ∧ t.dst k .im = 0) ∧
    (Config.nmax < s.len.toNat → ∃ t, exec .phase s = .next t ∧ s.refusedFrame 0x00000004#32 .resourceExhausted t)

/-- FFT.FWD and FFT.INV on two points (42_fft, section 3): one butterfly with the factor (1, +0), then the halving; for
finite inputs the componentwise sum and difference. No value of SIN reaches the result. -/
def Obligations.FftOnTwoPoints : Prop :=
  ∀ s : State, s.busy = false → s.len = 2 →
    let a := s.input 0
    let b := s.input 1
    let prRe := Float64.sub 0 (Float64.mul 0 (Float64.fromNat 1) b.1) (Float64.mul 0 Float64.zero b.2)
    let prIm := Float64.add 0 (Float64.mul 0 (Float64.fromNat 1) b.2) (Float64.mul 0 Float64.zero b.1)
    let two := Float64.fromNat 2
    let finite := [a.1, a.2, b.1, b.2].all Float64.isFinite
    ∃ t u, exec .fftFwd s = .next t ∧ exec .fftInv s = .next u ∧
      Float64.SameValue (t.dst 0 .re) (Float64.add 0 a.1 prRe) ∧
      Float64.SameValue (t.dst 0 .im) (Float64.add 0 a.2 prIm) ∧
      Float64.SameValue (t.dst 1 .re) (Float64.sub 0 a.1 prRe) ∧
      Float64.SameValue (t.dst 1 .im) (Float64.sub 0 a.2 prIm) ∧
      (∀ k l, k < 2 → Float64.SameValue (u.dst k l) (Float64.div 0 (t.dst k l) two)) ∧
      (finite = true →
        Float64.SameNumber (t.dst 0 .re) (Float64.add 0 a.1 b.1) ∧ Float64.SameNumber (t.dst 0 .im) (Float64.add 0 a.2 b.2) ∧
        Float64.SameNumber (t.dst 1 .re) (Float64.sub 0 a.1 b.1) ∧ Float64.SameNumber (t.dst 1 .im) (Float64.sub 0 a.2 b.2))

/-- FHT on two and on four points (43_hartley, section 3): no rotation, so no value of COS or SIN reaches the result; two
points are divided by fsqrt(2), four by exactly 2. -/
def Obligations.FhtOnSmallLengths : Prop :=
  ∀ s : State, s.busy = false →
    let x := fun k => s.src k .re
    let add := Float64.add 0
    let sub := Float64.sub 0
    (s.len = 2 → ∃ t, exec .fht s = .next t ∧
      Float64.sqrt 0 (Float64.fromNat 2) = 0x3FF6A09E667F3BCD#64 ∧
      Float64.SameValue (t.dst 0 .re) (Float64.div 0 (add (x 0) (x 1)) 0x3FF6A09E667F3BCD#64) ∧
      Float64.SameValue (t.dst 1 .re) (Float64.div 0 (sub (x 0) (x 1)) 0x3FF6A09E667F3BCD#64)) ∧
    (s.len = 4 → ∃ t, exec .fht s = .next t ∧
      let half := fun y => Float64.div 0 y (Float64.fromNat 2)
      Float64.SameValue (t.dst 0 .re) (half (add (add (x 0) (x 2)) (add (x 1) (x 3)))) ∧
      Float64.SameValue (t.dst 1 .re) (half (add (sub (x 0) (x 2)) (sub (x 1) (x 3)))) ∧
      Float64.SameValue (t.dst 2 .re) (half (sub (add (x 0) (x 2)) (add (x 1) (x 3)))) ∧
      Float64.SameValue (t.dst 3 .re) (half (sub (sub (x 0) (x 2)) (sub (x 1) (x 3)))))

/-- The literal example of the source, N = 4, all (1, 0) (42_fft, section 3, the worked example), for every SIN whose
values are finite and within [-1, 1]; finite alone is not enough, since the square of a huge SINE overflows. -/
def Obligations.ConstantFourPointsTransformExactly : Prop :=
  ∀ (sinRaw cosRaw : F64 → F64) (atan2Raw : F64 → F64 → F64) (regs : Regs F64),
    (∀ a, Float64.isFinite (sinRaw a) = true ∧ |Float64.value (sinRaw a)| ≤ 1) →
    let r := resultOf (Float64.num sinRaw cosRaw atan2Raw) regs fftForward 4 (fun _ => (Float64.fromNat 1, Float64.zero))
    r 0 = (Float64.fromNat 4, Float64.zero) ∧ r 1 = (Float64.zero, Float64.zero) ∧ r 2 = (Float64.zero, Float64.zero) ∧
    r 3 = (Float64.zero, Float64.zero)

/-! ### Micro-operations -/

/-- 40_bit_reverse R90, R91: the index map digit by digit, its properties, and its tables for m = 1 to 5. -/
def Obligations.BitReversalMapProperties : Prop :=
  (∀ m i b, i < 2 ^ m → b < m → (rev m i).testBit (m - 1 - b) = i.testBit b) ∧
  (∀ m i, 1 ≤ m → i < 2 ^ m →
    rev m i < 2 ^ m ∧ rev m (rev m i) = i ∧
    (rev m i = i ↔ ∀ b, b < m → i.testBit b = i.testBit (m - 1 - b)) ∧
    (i % 2 = 0 ↔ rev m i < 2 ^ (m - 1)) ∧ (i < 2 ^ (m - 1) → rev m (i + 2 ^ (m - 1)) = rev m i + 1)) ∧
  (∀ m, 1 ≤ m → rev m 0 = 0 ∧ rev m (2 ^ m - 1) = 2 ^ m - 1 ∧
    (∀ j, j < 2 ^ m → ∃ i, i < 2 ^ m ∧ rev m i = j)) ∧
  (∀ m i, 1 ≤ m → i < 2 ^ (m + 1) → rev (m + 1) i = i % 2 * 2 ^ m + rev m (i / 2)) ∧
  (List.range 2).map (rev 1) = [0, 1] ∧
  (List.range 4).map (rev 2) = [0, 2, 1, 3] ∧
  (List.range 8).map (rev 3) = [0, 4, 2, 6, 1, 5, 3, 7] ∧
  (List.range 16).map (rev 4) = [0, 8, 4, 12, 2, 10, 6, 14, 1, 9, 5, 13, 3, 11, 7, 15] ∧
  (List.range 32).map (rev 5) = [0, 16, 8, 24, 4, 20, 12, 28, 2, 18, 10, 26, 6, 22, 14, 30, 1, 17, 9, 25, 5, 21, 13, 29,
    3, 19, 11, 27, 7, 23, 15, 31]

/-- 40_bit_reverse R93: the outcome of BRP.COPYIN and BRP.PERMUTE on the buffers of a core, bit for bit, for the complex
and the real form; SRC and everything outside DST unchanged. -/
def Obligations.BitReversalOutcome : Prop :=
  ∀ (m : Nat) (real : Bool) (srcSeed dstSeed : Nat) (w : Work Memory F64), 1 ≤ m → m ≤ Config.log2Nmax →
    let e := bufferEnv coreNum srcSeed dstSeed
    let t := permute e (2 ^ m) (copyIn e real (2 ^ m) w)
    (∀ i, i < 2 ^ m →
      e.dst t.mem (rev m i) .re = e.src w.mem i .re ∧
      e.dst t.mem (rev m i) .im = (if real then Float64.zero else e.src w.mem i .im) ∧
      e.dst t.mem i .re = e.src w.mem (rev m i) .re ∧
      e.dst t.mem i .im = (if real then Float64.zero else e.src w.mem (rev m i) .im)) ∧
    (∀ k l, k < Config.nmax → e.src t.mem k l = e.src w.mem k l) ∧ Memory.sameOutsideDst w.mem t.mem ∧ t.draw = w.draw

/-- 42_fft R110: BFLY(p, q) reads all four lanes before it writes, computes each lane from the old values, writes those
four lanes and nothing else, and leaves the rotation factor. -/
def Obligations.ButterflyWritesTwoElements : Prop :=
  ∀ (p q srcSeed dstSeed : Nat) (w : Work Memory F64), p < q → q < Config.nmax →
    let e := bufferEnv coreNum srcSeed dstSeed
    let t := bfly e p q w
    let a := fun l => e.dst w.mem p l
    let b := fun l => e.dst w.mem q l
    let prRe := Float64.sub 0 (Float64.mul 0 w.regs.twRe (b .re)) (Float64.mul 0 w.regs.twIm (b .im))
    let prIm := Float64.add 0 (Float64.mul 0 w.regs.twRe (b .im)) (Float64.mul 0 w.regs.twIm (b .re))
    Float64.SameValue (e.dst t.mem q .re) (Float64.sub 0 (a .re) prRe) ∧
    Float64.SameValue (e.dst t.mem q .im) (Float64.sub 0 (a .im) prIm) ∧
    Float64.SameValue (e.dst t.mem p .re) (Float64.add 0 (a .re) prRe) ∧
    Float64.SameValue (e.dst t.mem p .im) (Float64.add 0 (a .im) prIm) ∧
    t.regs = w.regs ∧ Memory.sameOutsideLanes [p, q] [.re, .im] w.mem t.mem

/-- 43_hartley R131, R132: HT.ROT and HT.ADDSUB compute both results from the old pair and write the two real lanes and
nothing else. -/
def Obligations.RotationAndCombination : Prop :=
  ∀ (x y k srcSeed dstSeed : Nat) (w : Work Memory F64) (c sn : F64), x < y → y < Config.nmax →
    w.regs.htC[k]? = some c → w.regs.htS[k]? = some sn →
    let e := bufferEnv coreNum srcSeed dstSeed
    let a := e.dst w.mem x .re
    let b := e.dst w.mem y .re
    let r := htRot e x y k w
    let u := htAddSub e x y w
    Float64.SameValue (e.dst r.mem x .re) (Float64.add 0 (Float64.mul 0 a c) (Float64.mul 0 b sn)) ∧
    Float64.SameValue (e.dst r.mem y .re) (Float64.sub 0 (Float64.mul 0 a sn) (Float64.mul 0 b c)) ∧
    r.regs = w.regs ∧ Memory.sameOutsideLanes [x, y] [.re] w.mem r.mem ∧
    Float64.SameValue (e.dst u.mem x .re) (Float64.add 0 a b) ∧
    Float64.SameValue (e.dst u.mem y .re) (Float64.sub 0 a b) ∧
    u.regs = w.regs ∧ Memory.sameOutsideLanes [x, y] [.re] w.mem u.mem

/-- 41_twiddle R103: the factor of group g. In exact arithmetic it is (cos(gπ/s), −d·sin(gπ/s)); at g = 0 it is (1, +0)
for every direction and step; and the inverse factor is the conjugate of the forward one, up to the sign of a zero. -/
def Obligations.TwiddleFactors : Prop :=
  (∀ (dir : Direction) (s g : Nat) (w : Work Unit ℝ), 1 ≤ s →
    let f := (factorAfter exactNum dir s g w).regs
    f.twRe = Real.cos (g * Real.pi / s) ∧ f.twIm = -(dir.d : ℝ) * Real.sin (g * Real.pi / s)) ∧
  (∀ (sinRaw cosRaw : F64 → F64) (atan2Raw : F64 → F64 → F64) (dir : Direction) (s : Nat) (w : Work Unit F64),
    let f := (factorAfter (Float64.num sinRaw cosRaw atan2Raw) dir s 0 w).regs
    f.twRe = Float64.fromNat 1 ∧ f.twIm = Float64.zero) ∧
  (∀ (sinRaw cosRaw : F64 → F64) (atan2Raw : F64 → F64 → F64) (s g : Nat) (w w' : Work Unit F64), 1 ≤ s →
    let f := (factorAfter (Float64.num sinRaw cosRaw atan2Raw) .forward s g w).regs
    let f' := (factorAfter (Float64.num sinRaw cosRaw atan2Raw) .inverse s g w').regs
    Float64.SameNumber f'.twRe f.twRe ∧ Float64.SameNumber f'.twIm (Float64.neg f.twIm))

/-- The set-up of a stage (41_twiddle, TW.SETUP): the base angle is exactly −PI or +PI, DELTA is its exact scaling by the
step, the multiplier pair is that of the document's formulas. Memory and the units' registers are as before but for PI_D,
DELTA, SINE, MUL_RE, MUL_IM, and S_STEP, which gets s, and JUMP, which gets 2·s: those two are stage scalars written at
the start of the stage (10_state, section 4), and that the model writes them in TW.SETUP is its choice (log 18). -/
def Obligations.StageSetup : Prop :=
  ∀ (dir : Direction) (t : Nat) (w : Work Memory F64), t < Config.log2Nmax →
    let s := 2 ^ t
    let u := twSetup coreNum dir s w
    let two := Float64.fromNat 2
    u.regs.piD = (match dir with | .forward => Float64.neg Float64.pi | .inverse => Float64.pi) ∧
    Float64.isFinite u.regs.delta = true ∧ Float64.value u.regs.delta * s = Float64.value u.regs.piD ∧
    u.regs.sine = coreNum.sin (Float64.div 0 u.regs.delta two) ∧
    2 * Float64.value (Float64.div 0 u.regs.delta two) = Float64.value u.regs.delta ∧
    Float64.SameValue u.regs.mulRe (Float64.neg (Float64.mul 0 two (Float64.mul 0 u.regs.sine u.regs.sine))) ∧
    u.regs.mulIm = coreNum.sin u.regs.delta ∧
    u.mem = w.mem ∧
    u.regs = { w.regs with sStep := s, jump := 2 * s, piD := u.regs.piD, delta := u.regs.delta, sine := u.regs.sine,
                           mulRe := u.regs.mulRe, mulIm := u.regs.mulIm }

/-- TW.INIT and TW.ADV in the core's NUM (41_twiddle, TW.INIT and TW.ADV): the factor starts at (1, +0); both components
of the next factor come from the factor before, in the grouping of the rule, the two products, their difference or sum,
then the old component; nothing but TW_RE and TW_IM changes. -/
def Obligations.TwiddleAdvance : Prop :=
  ∀ w : Work Memory F64,
    let r := w.regs
    let a := twInit coreNum w
    let u := twAdv coreNum w
    a.regs.twRe = 0x3FF0000000000000#64 ∧ a.regs.twIm = 0x0000000000000000#64 ∧
    a.mem = w.mem ∧ a.regs = { r with twRe := a.regs.twRe, twIm := a.regs.twIm } ∧
    Float64.SameValue u.regs.twRe
      (Float64.add 0 (Float64.sub 0 (Float64.mul 0 r.mulRe r.twRe) (Float64.mul 0 r.mulIm r.twIm)) r.twRe) ∧
    Float64.SameValue u.regs.twIm
      (Float64.add 0 (Float64.add 0 (Float64.mul 0 r.mulIm r.twRe) (Float64.mul 0 r.mulRe r.twIm)) r.twIm) ∧
    u.mem = w.mem ∧ u.regs = { r with twRe := u.regs.twRe, twIm := u.regs.twIm }

/-- The pairs of a stage (42_fft, section 1): its butterflies write every lane of DST[0..N-1] exactly once. -/
def Obligations.StageWritesEveryLaneOnce : Prop :=
  ∀ (num : Num F64) (dir : Direction) (m t : Nat) (regs : Regs F64) (d : Nat), t < m →
    (stage (writeLog num) dir (2 ^ m) (2 ^ t) ⟨[], regs, d⟩).mem.Perm
      ((List.range (2 ^ m)).flatMap fun k => [(k, Lane.re), (k, Lane.im)])

/-- SCALE.N and HT.NORM (42_fft, section 1; 43_hartley, section 1): every lane, or every real lane, of the first N elements
is divided by N, or by the once computed root of N, and nothing else of memory changes; dividing by N is multiplying by
1/N. -/
def Obligations.ScalingDividesEveryLane : Prop :=
  ∀ (m srcSeed dstSeed : Nat) (w : Work Memory F64), 1 ≤ m → m ≤ Config.log2Nmax →
    let n := 2 ^ m
    let e := bufferEnv coreNum srcSeed dstSeed
    let u := scaleN e n w
    let v := hartleyNorm e n w
    (∀ k l, k < n → Float64.SameValue (e.dst u.mem k l) (Float64.div 0 (e.dst w.mem k l) (Float64.fromNat n))) ∧
    (∀ k l, k < n → Float64.SameValue (e.dst u.mem k l)
      (Float64.mul 0 (e.dst w.mem k l) (Float64.div 0 (Float64.fromNat 1) (Float64.fromNat n)))) ∧
    Memory.sameOutsideLanes (List.range n) [.re, .im] w.mem u.mem ∧ u.regs = { w.regs with k := u.regs.k } ∧
    (∀ k, k < n → Float64.SameValue (e.dst v.mem k .re)
      (Float64.div 0 (e.dst w.mem k .re) (Float64.sqrt 0 (Float64.fromNat n)))) ∧
    Memory.sameOutsideLanes (List.range n) [.re] w.mem v.mem ∧
    v.regs = { w.regs with rootN := Float64.sqrt 0 (Float64.fromNat n), k := v.regs.k }

/-- HT.TABLE (43_hartley, section 1): entry k is the cosine and the sine of ((2·PI)·k)/N, evaluated in that order, in the
core's NUM; entry 0 is (1, +0); the entries from N/2 on and all of memory are as before. -/
def Obligations.HartleyTableEntries : Prop :=
  ∀ (m : Nat) (w : Work Memory F64), 1 ≤ m → 2 ^ m / 2 ≤ w.regs.htC.length → 2 ^ m / 2 ≤ w.regs.htS.length →
    m ≤ Config.log2Nmax →
    let n := 2 ^ m
    let t := hartleyTable coreNum n w
    let ang := fun k => Float64.div 0
      (Float64.mul 0 (Float64.mul 0 (Float64.fromNat 2) Float64.pi) (Float64.fromNat k)) (Float64.fromNat n)
    (∀ k, k < n / 2 → t.regs.htC[k]? = some (coreNum.cos (ang k)) ∧ t.regs.htS[k]? = some (coreNum.sin (ang k))) ∧
    t.regs.htC[0]? = some (Float64.fromNat 1) ∧ t.regs.htS[0]? = some Float64.zero ∧
    (∀ k, n / 2 ≤ k → t.regs.htC[k]? = w.regs.htC[k]? ∧ t.regs.htS[k]? = w.regs.htS[k]?) ∧
    (∀ k, k < n / 2 → Float64.isFinite (ang k) = true ∧
      ang k = Float64.mul 0 (Float64.fromNat k) (Float64.div 0 (Float64.mul 0 (Float64.fromNat 2) Float64.pi) (Float64.fromNat n))) ∧
    t.mem = w.mem ∧ t.regs = { w.regs with htC := t.regs.htC, htS := t.regs.htS, k := t.regs.k }

/-! ### Numbers -/

/-- The parameters of the configuration (00_scope, section 4): the widths FW and LENW are those of the model's types, and
each parameter meets its constraint. NMAX at its default is log 14, BASE is free (log 13). -/
def Obligations.ParametersOfTheConfiguration : Prop :=
  F64 = BitVec Config.fw ∧ LenWord = BitVec Config.lenW ∧ Config.fmt.width = Config.fw ∧
  Config.fmt = .binary64 ∧ Config.fw = 64 ∧ Config.lenW = 32 ∧
  2 ≤ Config.log2Nmax ∧ Config.log2Nmax ≤ 30 ∧ Config.nmax = 2 ^ Config.log2Nmax ∧ Config.nmax < 2 ^ Config.lenW ∧
  Config.idxWidth = Config.log2Nmax + 2 ∧ 2 * Config.nmax < 2 ^ Config.idxWidth ∧
  Config.base % (64 * Config.nmax) = 0 ∧ tol = 1 / 1000000000 ∧
  (∀ s : State, s.cap.toNat = Config.nmax)

/-- Addition, subtraction and multiplication of finite values are rounded once, to nearest, ties to even (00_scope,
section 6), with IEEE 754's sign of an exact zero. -/
def Obligations.AddSubMulAreRounded : Prop :=
  ∀ (d : Nat) (a b : F64), Float64.isFinite a = true → Float64.isFinite b = true →
    Float64.IsRounding (Float64.value a + Float64.value b) (Float64.add d a b) ∧
    Float64.IsRounding (Float64.value a - Float64.value b) (Float64.sub d a b) ∧
    Float64.IsRounding (Float64.value a * Float64.value b) (Float64.mul d a b) ∧
    (Float64.value a + Float64.value b = 0 →
      (Float64.sign (Float64.add d a b) = true ↔ Float64.isZero a = true ∧ Float64.sign a = true ∧ Float64.sign b = true)) ∧
    Float64.sign (Float64.mul d a b) = (Float64.sign a != Float64.sign b)

/-- Division and square root of finite values are rounded once, to nearest, ties to even (00_scope, section 6). -/
def Obligations.DivAndSqrtAreRounded : Prop :=
  (∀ (d : Nat) (a b : F64), Float64.isFinite a = true → Float64.isFinite b = true → Float64.isZero b = false →
    Float64.IsRounding (Float64.value a / Float64.value b) (Float64.div d a b) ∧
    Float64.sign (Float64.div d a b) = (Float64.sign a != Float64.sign b)) ∧
  (∀ (d : Nat) (a : F64), Float64.isFinite a = true → Float64.sign a = false →
    Float64.IsRounding (Real.sqrt (Float64.value a)) (Float64.sqrt d a)) ∧
  (∀ (d : Nat) (a : F64), Float64.isZero a = true → Float64.sqrt d a = a)

/-- When a result is a NaN, what the operations give on infinities and on a zero divisor, and that every NaN can be the
free one (00_scope, section 6). -/
def Obligations.SpecialValues : Prop :=
  (∀ (d : Nat) (a b : F64),
    (Float64.isNaN (Float64.add d a b) = true ↔ Float64.isNaN a = true ∨ Float64.isNaN b = true ∨
      (Float64.isInf a = true ∧ Float64.isInf b = true ∧ Float64.sign a ≠ Float64.sign b)) ∧
    (Float64.isNaN (Float64.sub d a b) = true ↔ Float64.isNaN a = true ∨ Float64.isNaN b = true ∨
      (Float64.isInf a = true ∧ Float64.isInf b = true ∧ Float64.sign a = Float64.sign b)) ∧
    (Float64.isNaN (Float64.mul d a b) = true ↔ Float64.isNaN a = true ∨ Float64.isNaN b = true ∨
      (Float64.isInf a = true ∧ Float64.isZero b = true) ∨ (Float64.isZero a = true ∧ Float64.isInf b = true)) ∧
    (Float64.isNaN (Float64.div d a b) = true ↔ Float64.isNaN a = true ∨ Float64.isNaN b = true ∨
      (Float64.isInf a = true ∧ Float64.isInf b = true) ∨ (Float64.isZero a = true ∧ Float64.isZero b = true)) ∧
    (Float64.isNaN (Float64.sqrt d a) = true ↔
      Float64.isNaN a = true ∨ (Float64.sign a = true ∧ Float64.isZero a = false)) ∧
    (Float64.isInf a = true → Float64.isFinite b = true →
      Float64.add d a b = a ∧ Float64.add d b a = a ∧ Float64.sub d a b = a ∧ Float64.sub d b a = Float64.neg a) ∧
    (Float64.isInf a = true → Float64.isNaN b = false → Float64.isZero b = false →
      Float64.isInf (Float64.mul d a b) = true ∧
      Float64.sign (Float64.mul d a b) = (Float64.sign a != Float64.sign b) ∧
      Float64.isInf (Float64.mul d b a) = true ∧
      Float64.sign (Float64.mul d b a) = (Float64.sign a != Float64.sign b)) ∧
    (Float64.isInf a = true → Float64.isInf b = true →
      (Float64.sign a = Float64.sign b → Float64.add d a b = a) ∧
      (Float64.sign a ≠ Float64.sign b → Float64.sub d a b = a)) ∧
    (Float64.isInf b = true → Float64.isFinite a = true →
      Float64.isZero (Float64.div d a b) = true ∧
      Float64.sign (Float64.div d a b) = (Float64.sign a != Float64.sign b)) ∧
    (Float64.isInf a = true → Float64.isFinite b = true →
      Float64.isInf (Float64.div d a b) = true ∧
      Float64.sign (Float64.div d a b) = (Float64.sign a != Float64.sign b)) ∧
    (Float64.isFinite a = true → Float64.isZero a = false → Float64.isZero b = true →
      Float64.isInf (Float64.div d a b) = true ∧
      Float64.sign (Float64.div d a b) = (Float64.sign a != Float64.sign b)) ∧
    (Float64.isInf a = true → Float64.sign a = false → Float64.sqrt d a = a) ∧
    Float64.mag (Float64.neg a) = Float64.mag a ∧ Float64.sign (Float64.neg a) = !Float64.sign a) ∧
  (∀ bits : F64, Float64.isNaN (Float64.nanOf bits) = true) ∧
  (∀ x : F64, Float64.isNaN x = true → ∃ bits, Float64.nanOf bits = x)

/-- 00_scope R10: the exactness facts E1 to E6; the powers of two of E1 are those that are values of F (R7 converts none
above 2^31). -/
def Obligations.ExactnessFacts : Prop :=
  (∀ (d d' d'' : Nat) (a : F64) (j : Nat), Float64.isFinite a = true → j ≤ 1023 →
    let r := Float64.div d a (Float64.fromNat (2 ^ j))
    Float64.IsRounding (Float64.value a / 2 ^ j) r ∧
    ((2 : ℝ) ^ (-1022 : ℤ) ≤ |Float64.value a / 2 ^ j| → Float64.value r = Float64.value a / 2 ^ j) ∧
    r = Float64.mul d' a (Float64.div d'' (Float64.fromNat 1) (Float64.fromNat (2 ^ j)))) ∧
  (∀ (d : Nat) (a : F64), Float64.isFinite a = true →
    (|Float64.value a| < 2 ^ 1023 → Float64.value (Float64.mul d (Float64.fromNat 2) a) = 2 * Float64.value a) ∧
    ((2 : ℝ) ^ (-1021 : ℤ) ≤ |Float64.value a| →
      Float64.value (Float64.div d a (Float64.fromNat 2)) = Float64.value a / 2)) ∧
  (∀ (d d' : Nat) (a b : F64), Float64.isNaN a = false → Float64.isNaN b = false →
    Float64.SameValue (Float64.add d a b) (Float64.add d' b a) ∧
    Float64.SameValue (Float64.mul d a b) (Float64.mul d' b a)) ∧
  (∀ (d : Nat) (a : F64), Float64.isNaN a = false →
    Float64.mul d (Float64.fromNat 1) a = a ∧
    Float64.add d a Float64.zero = (if a = Float64.neg Float64.zero then Float64.zero else a)) ∧
  (∀ d : Nat,
    (∀ a : F64, Float64.isFinite a = true → Float64.sub d a a = Float64.zero) ∧
    Float64.sub d Float64.zero Float64.zero = Float64.zero ∧
    Float64.sub d Float64.zero (Float64.neg Float64.zero) = Float64.zero ∧
    Float64.add d Float64.zero (Float64.neg Float64.zero) = Float64.zero ∧
    Float64.sub d (Float64.neg Float64.zero) Float64.zero = Float64.neg Float64.zero) ∧
  (∀ (d : Nat) (x y : Int), x.natAbs < 2 ^ 53 → y.natAbs < 2 ^ 53 →
    ((x + y).natAbs < 2 ^ 53 →
      Float64.value (Float64.add d (Float64.fromInt x) (Float64.fromInt y)) = ((x + y : Int) : ℝ)) ∧
    ((x - y).natAbs < 2 ^ 53 →
      Float64.value (Float64.sub d (Float64.fromInt x) (Float64.fromInt y)) = ((x - y : Int) : ℝ)) ∧
    ((x * y).natAbs < 2 ^ 53 →
      Float64.value (Float64.mul d (Float64.fromInt x) (Float64.fromInt y)) = ((x * y : Int) : ℝ)))

/-- The constants of NUM (00_scope, section 6; 44_spectral, section 1): fromNat is exact up to 2^53, and PI, PI/2, PI/4,
3PI/4 are the values nearest to the real ones. -/
def Obligations.ConstantsAreNearest : Prop :=
  (∀ n : Nat, n ≤ 2 ^ 53 → Float64.isFinite (Float64.fromNat n) = true ∧ Float64.value (Float64.fromNat n) = n) ∧
  Float64.IsRounding Real.pi Float64.pi ∧ Float64.IsRounding (Real.pi / 2) Float64.halfPi ∧
  Float64.IsRounding (Real.pi / 4) Float64.quarterPi ∧ Float64.IsRounding (3 * Real.pi / 4) Float64.threeQuarterPi

/-- The properties of SIN and COS that the spec names, whatever the configuration gives (00_scope, section 6). -/
def Obligations.SineAndCosineProperties : Prop :=
  ∀ (sinRaw cosRaw : F64 → F64) (a : F64),
    Float64.sin sinRaw Float64.zero = Float64.zero ∧ Float64.cos cosRaw Float64.zero = Float64.fromNat 1 ∧
    Float64.sin sinRaw (Float64.neg a) = Float64.neg (Float64.sin sinRaw a) ∧
    Float64.cos cosRaw (Float64.neg a) = Float64.cos cosRaw a ∧
    (Float64.isNaN a = true → Float64.isNaN (Float64.sin sinRaw a) = true ∧ Float64.isNaN (Float64.cos cosRaw a) = true)

/-- 44_spectral R151: PHASE.E is ATAN2 with the real part as the ordinate, its result lies in [−PI, +PI], and the table of
special cases holds, whatever the configuration gives elsewhere. -/
def Obligations.PhaseSpecialCases : Prop :=
  ∀ (sinRaw cosRaw : F64 → F64) (raw : F64 → F64 → F64) (re im : F64),
    let num := Float64.num sinRaw cosRaw raw
    let ph := phaseE num re im
    let withSign := fun x : F64 => Float64.signed (Float64.sign re) x
    ph = num.atan2 re im ∧
    (Float64.isNaN re = true ∨ Float64.isNaN im = true → Float64.isNaN ph = true) ∧
    (Float64.isNaN re = false → Float64.isNaN im = false →
      Float64.isFinite ph = true ∧ |Float64.value ph| ≤ Float64.value Float64.pi ∧
      (Float64.isZero re = true → Float64.sign im = false → ph = withSign Float64.zero) ∧
      (Float64.isZero re = true → Float64.sign im = true → ph = withSign 0x400921FB54442D18#64) ∧
      (Float64.isZero re = false → Float64.isZero im = true → ph = withSign 0x3FF921FB54442D18#64) ∧
      (Float64.isFinite re = true → Float64.isZero re = false → Float64.isInf im = true →
        ph = withSign (if Float64.sign im then 0x400921FB54442D18#64 else Float64.zero)) ∧
      (Float64.isInf re = true → Float64.isFinite im = true → ph = withSign 0x3FF921FB54442D18#64) ∧
      (Float64.isInf re = true → Float64.isInf im = true →
        ph = withSign (if Float64.sign im then 0x4002D97C7F3321D2#64 else 0x3FE921FB54442D18#64)))

/-- 44_spectral R150: MAG.E is the literal formula in its grouping, with its consequences: never negative and never −0, a NaN exactly when an
input is, infinite when a square overflows, zero when both squares underflow, blind to the signs of its inputs, and 5 for (3, 4). -/
def Obligations.MagnitudeProperties : Prop :=
  ∀ (d : Nat) (re im : F64),
    let mg := magE coreNum d re im
    mg = Float64.sqrt (d + 3) (Float64.add (d + 2) (Float64.mul d re re) (Float64.mul (d + 1) im im)) ∧
    (Float64.isNaN mg = true ↔ Float64.isNaN re = true ∨ Float64.isNaN im = true) ∧
    (Float64.isNaN mg = false → Float64.sign mg = false) ∧
    (Float64.isNaN mg = false → Float64.isInf (Float64.mul d re re) = true ∨ Float64.isInf (Float64.mul d im im) = true →
      Float64.isInf mg = true) ∧
    (Float64.isZero (Float64.mul d re re) = true → Float64.isZero (Float64.mul d im im) = true → mg = Float64.zero) ∧
    Float64.SameValue (magE coreNum d (Float64.neg re) im) mg ∧ Float64.SameValue (magE coreNum d re (Float64.neg im)) mg ∧
    magE coreNum d (Float64.fromNat 3) (Float64.fromNat 4) = Float64.fromNat 5

/-! ### Mathematical meaning -/

/-- The reference transforms (48_reference_functions): the lengths refused with InvalidLength, and on every other length
the direct sums, of the discrete Fourier transform by its real and imaginary parts. -/
def Obligations.ReferenceTransforms : Prop :=
  ∀ len : Nat,
    (∀ (dir : Direction) (x : Nat → ℂ), (len < 2 ∨ ¬∃ m, len = 2 ^ m) → naiveDft dir len x = .error .invalidLength) ∧
    (∀ (dir : Direction) (x : Nat → ℂ), 2 ≤ len → (∃ m, len = 2 ^ m) →
      ∃ r, naiveDft dir len x = .ok r ∧ ∀ n : Nat,
        let c : ℝ := match dir with | .forward => 1 | .inverse => 1 / len
        let θ := fun k : Nat => (dir.d : ℝ) * -(2 * Real.pi * n * k / len)
        (r n).re = c * ∑ k ∈ Finset.range len, ((x k).re * Real.cos (θ k) - (x k).im * Real.sin (θ k)) ∧
        (r n).im = c * ∑ k ∈ Finset.range len, ((x k).re * Real.sin (θ k) + (x k).im * Real.cos (θ k))) ∧
    (∀ x : Nat → ℝ, len % 2 = 1 → naiveDht len x = .error .invalidLength) ∧
    (∀ x : Nat → ℝ, len % 2 = 0 →
      ∃ r, naiveDht len x = .ok r ∧ ∀ i : Nat,
        r i = 1 / Real.sqrt len * ∑ k ∈ Finset.range len,
          x k * (Real.sin (2 * Real.pi * i * k / len) + Real.cos (2 * Real.pi * i * k / len)))

/-- With every operation of NUM exact, FFT.FWD and FFT.INV compute the discrete Fourier transform and its inverse, in
natural order (42_fft, section 3; 48_reference_functions). -/
def Obligations.ExactFftIsDft : Prop :=
  ∀ (m : Nat) (regs : Regs ℝ) (x : Nat → ℝ × ℝ), 1 ≤ m →
    ∃ r r' : Nat → ℂ, naiveDft .forward (2 ^ m) (fun j => toComplex (x j)) = .ok r ∧
      naiveDft .inverse (2 ^ m) (fun j => toComplex (x j)) = .ok r' ∧
      ∀ k, k < 2 ^ m →
        toComplex (resultOf exactNum regs fftForward (2 ^ m) x k) = r k ∧
        toComplex (resultOf exactNum regs fftInverse (2 ^ m) x k) = r' k

/-- With every operation of NUM exact, FFT.INV undoes FFT.FWD (42_fft, section 3, the round trip). -/
def Obligations.ExactInverseUndoesForward : Prop :=
  ∀ (m : Nat) (regs regs' : Regs ℝ) (x : Nat → ℝ × ℝ), 1 ≤ m → ∀ k, k < 2 ^ m →
    resultOf exactNum regs' fftInverse (2 ^ m) (resultOf exactNum regs fftForward (2 ^ m) x) k = x k

/-- With every operation of NUM exact, FHT computes the normalised discrete Hartley transform, with imaginary lanes 0
(43_hartley, section 3; 48_reference_functions). -/
def Obligations.ExactHartleyIsDht : Prop :=
  ∀ (m : Nat) (regs : Regs ℝ) (x : Nat → ℝ × ℝ), 1 ≤ m → 2 ^ m / 2 ≤ regs.htC.length → 2 ^ m / 2 ≤ regs.htS.length →
    ∃ r : Nat → ℝ, naiveDht (2 ^ m) (fun j => (x j).1) = .ok r ∧
      ∀ k, k < 2 ^ m → resultOf exactNum regs hartley (2 ^ m) x k = (r k, 0)

/-- With every operation of NUM exact, FHT is its own inverse (43_hartley, section 3). -/
def Obligations.ExactHartleyIsItsOwnInverse : Prop :=
  ∀ (m : Nat) (regs regs' : Regs ℝ) (x : Nat → ℝ × ℝ), 1 ≤ m →
    2 ^ m / 2 ≤ regs.htC.length → 2 ^ m / 2 ≤ regs.htS.length →
    2 ^ m / 2 ≤ regs'.htC.length → 2 ^ m / 2 ≤ regs'.htS.length →
    ∀ k, k < 2 ^ m →
      (resultOf exactNum regs' hartley (2 ^ m) (resultOf exactNum regs hartley (2 ^ m) x) k).1 = (x k).1

/-- The two directions mirror each other (42_fft, section 3): the stages of FFT.INV are those of FFT.FWD on the conjugated
input, conjugated, in every bit but the sign of a zero. -/
def Obligations.ConjugationExchangesTheDirections : Prop :=
  ∀ (sinRaw cosRaw : F64 → F64) (atan2Raw : F64 → F64 → F64) (m : Nat) (regs : Regs F64) (x : Nat → F64 × F64)
    (d d' : Nat),
    let e := sequenceEnv (Float64.num sinRaw cosRaw atan2Raw) x
    let y := (fftCore e .forward (2 ^ m) ⟨fun k => ((x k).1, Float64.neg (x k).2), regs, d⟩).mem
    let z := (fftCore e .inverse (2 ^ m) ⟨x, regs, d'⟩).mem
    ∀ k, Float64.SameNumber (z k).1 (y k).1 ∧ Float64.SameNumber (z k).2 (Float64.neg (y k).2)
end

