-- ==== Sys2Proof/Laws/Memory.lean ====
section
/-! SUPPORT. The laws of the byte memory: read after write, the canonical form, and the places of the lanes. -/

namespace Sys2Proof.Machine.Memory

/-! ### One byte -/

@[simp] theorem readByte_nil (a : Nat) : readByte [] a = none := rfl

theorem readByte_writeByte (m : Memory) (a b : Nat) (v : Byte) :
    readByte (writeByte m a v) b = if b = a then some v else readByte m b := by
  induction m with
  | nil => simp [writeByte, readByte, eq_comm]
  | cons c m ih =>
    obtain ⟨d, w⟩ := c
    simp only [writeByte]
    split
    · simp only [readByte]; split <;> simp_all [eq_comm]
    · split
      · subst_vars; simp only [readByte]; split <;> simp_all [eq_comm]
      · simp only [readByte, ih]; split <;> split <;> simp_all

@[simp] theorem readByte_writeByte_same (m : Memory) (a : Nat) (v : Byte) :
    readByte (writeByte m a v) a = some v := by simp [readByte_writeByte]

theorem readByte_writeByte_ne (m : Memory) {a b : Nat} (v : Byte) (h : b ≠ a) :
    readByte (writeByte m a v) b = readByte m b := by simp [readByte_writeByte, h]

theorem mem_writeByte {m : Memory} {a : Nat} {v : Byte} {c : Host.Cell} (h : c ∈ writeByte m a v) :
    c = (a, v) ∨ c ∈ m := by
  induction m with
  | nil => simpa [writeByte] using h
  | cons d m ih =>
    obtain ⟨b, w⟩ := d
    simp only [writeByte] at h
    split at h
    · simpa using h
    · split at h
      · rcases List.mem_cons.1 h with h | h
        · exact .inl h
        · exact .inr (List.mem_cons_of_mem _ h)
      · rcases List.mem_cons.1 h with h | h
        · exact .inr (h ▸ List.mem_cons_self)
        · exact (ih h).imp id (List.mem_cons_of_mem _)

theorem wf_writeByte {m : Memory} (h : m.wf) (a : Nat) (v : Byte) : wf (writeByte m a v) := by
  induction m with
  | nil => simp [writeByte, wf]
  | cons d m ih =>
    obtain ⟨b, w⟩ := d
    have hb := List.pairwise_cons.1 h
    simp only [writeByte]
    split
    · rename_i hab
      refine List.pairwise_cons.2 ⟨fun c hc => ?_, h⟩
      rcases List.mem_cons.1 hc with rfl | hc
      · exact hab
      · exact Nat.lt_trans hab (hb.1 c hc)
    · split
      · rename_i hab
        subst hab
        exact List.pairwise_cons.2 ⟨hb.1, hb.2⟩
      · refine List.pairwise_cons.2 ⟨fun c hc => ?_, ih hb.2⟩
        rcases mem_writeByte hc with rfl | hc
        · simp only; omega
        · exact hb.1 c hc

/-! ### Several bytes -/

theorem readByte_writeBytes_outside (m : Memory) (a n v b : Nat) (h : b < a ∨ a + n ≤ b) :
    readByte (writeBytes m a n v) b = readByte m b := by
  induction n generalizing m a v with
  | zero => rfl
  | succ n ih =>
    rw [writeBytes, ih _ _ _ (by omega), readByte_writeByte_ne _ _ (by omega)]

theorem readByte_writeBytes_inside (m : Memory) (a n v j : Nat) (h : j < n) :
    readByte (writeBytes m a n v) (a + j) = some (BitVec.ofNat 8 (v / 256 ^ j)) := by
  induction n generalizing m a v j with
  | zero => omega
  | succ n ih =>
    rw [writeBytes]
    cases j with
    | zero => rw [readByte_writeBytes_outside _ _ _ _ _ (by omega)]; simp
    | succ j =>
      have := ih (writeByte m a (BitVec.ofNat 8 v)) (a + 1) (v / 256) j (by omega)
      rw [show a + (j + 1) = a + 1 + j by omega, this, Nat.div_div_eq_div_mul, Nat.pow_succ, Nat.mul_comm 256]

theorem readBytes_congr {m m' : Memory} {a n : Nat} (h : ∀ j, j < n → readByte m (a + j) = readByte m' (a + j)) :
    readBytes m a n = readBytes m' a n := by
  induction n generalizing a with
  | zero => rfl
  | succ n ih =>
    have h0 : readByte m a = readByte m' a := h 0 (by omega)
    rw [readBytes, readBytes, h0, ih fun j hj => by simpa [Nat.add_assoc, Nat.add_comm 1] using h (j + 1) (by omega)]

theorem readBytes_writeBytes_same (m : Memory) (a n v : Nat) :
    readBytes (writeBytes m a n v) a n = some (v % 256 ^ n) := by
  induction n generalizing m a v with
  | zero => simp [readBytes, Nat.mod_one]
  | succ n ih =>
    have h0 : readByte (writeBytes m a (n + 1) v) a = some (BitVec.ofNat 8 v) := by
      simpa using readByte_writeBytes_inside m a (n + 1) v 0 (by omega)
    rw [readBytes, h0, writeBytes, ih]
    rw [show 256 ^ (n + 1) = 256 * 256 ^ n by ring, Nat.mod_mul]
    rfl

theorem wf_writeBytes {m : Memory} (h : m.wf) (a n v : Nat) : wf (writeBytes m a n v) := by
  induction n generalizing m a v with
  | zero => exact h
  | succ n ih => exact ih (wf_writeByte h _ _) _ _

theorem mem_writeBytes {m : Memory} {a n v : Nat} {c : Host.Cell} (h : c ∈ writeBytes m a n v) :
    (a ≤ c.1 ∧ c.1 < a + n) ∨ c ∈ m := by
  induction n generalizing m a v with
  | zero => exact .inr h
  | succ n ih =>
    rcases ih h with h | h
    · exact .inl (by omega)
    · rcases mem_writeByte h with rfl | h
      · exact .inl (by simp)
      · exact .inr h

/-! ### Lanes -/

@[simp] theorem readLane_writeLane_same (m : Memory) (a : Nat) (x : F64) : readLane (writeLane m a x) a = some x := by
  have h : x.toNat % 256 ^ 8 = x.toNat := Nat.mod_eq_of_lt (by have := x.isLt; omega)
  rw [readLane, writeLane, readBytes_writeBytes_same, h]
  simp

theorem readLane_writeLane_disjoint (m : Memory) {a b : Nat} (x : F64) (h : b + 8 ≤ a ∨ a + 8 ≤ b) :
    readLane (writeLane m a x) b = readLane m b := by
  unfold readLane writeLane
  rw [readBytes_congr fun j hj => readByte_writeBytes_outside m a 8 x.toNat (b + j) (by omega)]

theorem readByte_writeLane_outside (m : Memory) {a b : Nat} (x : F64) (h : b < a ∨ a + 8 ≤ b) :
    readByte (writeLane m a x) b = readByte m b := readByte_writeBytes_outside _ _ _ _ _ h

theorem readByte_writeLane_inside (m : Memory) (a : Nat) (x : F64) {j : Nat} (h : j < 8) :
    readByte (writeLane m a x) (a + j) = some (x.extractLsb' (8 * j) 8) := by
  rw [writeLane, readByte_writeBytes_inside _ _ _ _ _ h]
  congr 1
  apply BitVec.eq_of_toNat_eq
  simp only [BitVec.toNat_ofNat, BitVec.extractLsb'_toNat, Nat.shiftRight_eq_div_pow]
  rw [show (256 : Nat) = 2 ^ 8 by rfl, ← Nat.pow_mul]

theorem readLane_congr {m m' : Memory} {a : Nat} (h : ∀ j, j < 8 → readByte m (a + j) = readByte m' (a + j)) :
    readLane m a = readLane m' a := by rw [readLane, readLane, readBytes_congr h]

theorem wf_writeLane {m : Memory} (h : m.wf) (a : Nat) (x : F64) : wf (writeLane m a x) := wf_writeBytes h _ _ _

theorem mem_writeLane {m : Memory} {a : Nat} {x : F64} {c : Host.Cell} (h : c ∈ writeLane m a x) :
    (a ≤ c.1 ∧ c.1 < a + 8) ∨ c ∈ m := mem_writeBytes h

/-! ### Forgetting DST -/

theorem wf_dropDst {m : Memory} (h : m.wf) : wf m.dropDst := List.Pairwise.filter _ h

theorem mem_dropDst {m : Memory} {c : Host.Cell} (h : c ∈ m.dropDst) : c ∈ m := (List.mem_filter.1 h).1

theorem readByte_dropDst (m : Memory) (a : Nat) :
    readByte m.dropDst a = if inWindow .dst a then none else readByte m a := by
  induction m with
  | nil => simp [dropDst, readByte]
  | cons d m ih =>
    obtain ⟨b, w⟩ := d
    simp only [dropDst, List.filter_cons] at ih ⊢
    split
    · simp only [readByte, ih]
      split
      · subst_vars; simp_all
      · rfl
    · rw [ih]
      simp only [readByte]
      split
      · rfl
      · split
        · subst_vars; simp_all
        · rfl

/-! ### Where the lanes lie (20_memory R52) -/

theorem bufBytes_eq : Config.bufBytes = 16384 := by decide

theorem nmax_eq : Config.nmax = 1024 := by decide

theorem offset_inWindow (sp : Space) {k : Nat} (l : Lane) (h : k < Config.nmax) {j : Nat} (hj : j < 8) :
    inWindow sp (offset sp k l + j) = true := by
  rw [nmax_eq] at h
  cases sp <;> cases l <;> simp [inWindow, offset, window, laneOffset, bufBytes_eq] <;> omega

/-- Two lanes of buffers inside the capacity are one lane or eight bytes apart at least. -/
theorem offset_disjoint {sp sp' : Space} {k k' : Nat} {l l' : Lane} (h : k < Config.nmax) (h' : k' < Config.nmax)
    (hne : ¬(sp = sp' ∧ k = k' ∧ l = l')) :
    offset sp k l + 8 ≤ offset sp' k' l' ∨ offset sp' k' l' + 8 ≤ offset sp k l := by
  rw [nmax_eq] at h h'
  cases sp <;> cases sp' <;> cases l <;> cases l' <;>
    simp [offset, window, laneOffset, bufBytes_eq] at hne ⊢ <;> omega

/-- The bytes of a SRC lane are not in DST's window. -/
theorem src_not_in_dst {k : Nat} (l : Lane) (h : k < Config.nmax) {j : Nat} (hj : j < 8) :
    inWindow .dst (offset .src k l + j) = false := by
  rw [nmax_eq] at h
  cases l <;> simp [inWindow, offset, window, laneOffset, bufBytes_eq] <;> omega

end Sys2Proof.Machine.Memory

namespace Sys2Proof.Machine

/-- Reading a lane after DST[k].l was written. -/
theorem laneValue_writeLane {seed : Nat} {m : Memory} {sp : Space} {k k' : Nat} {l l' : Lane} {x : F64}
    (h : k < Config.nmax) (h' : k' < Config.nmax) :
    laneValue seed (m.writeLane (Memory.offset .dst k l) x) sp k' l' =
      if sp = .dst ∧ k' = k ∧ l' = l then x else laneValue seed m sp k' l' := by
  split
  · rename_i e
    obtain ⟨rfl, rfl, rfl⟩ := e
    simp [laneValue]
  · rename_i e
    rw [laneValue, Memory.readLane_writeLane_disjoint _ _
      (Memory.offset_disjoint h' h fun ⟨a, b, c⟩ => e ⟨a, b, c⟩), laneValue]

end Sys2Proof.Machine
end

