-- ==== Sys2Proof/Laws/Buffers.lean ====
section
/-! SUPPORT. What storing a lane of DST does to the environment the procedures of a core run over: to every lane of SRC and
DST, to every byte, and to the canonical form. -/

namespace Sys2Proof.Machine

variable (num : Num F64) (srcSeed dstSeed : Nat)

@[simp] theorem bufferEnv_num : (bufferEnv num srcSeed dstSeed).num = num := rfl

/-- A lane of DST after a store. -/
theorem dst_put (m : Memory) {k k' : Nat} (l l' : Lane) (x : F64) (h : k < Config.nmax) (h' : k' < Config.nmax) :
    (bufferEnv num srcSeed dstSeed).dst ((bufferEnv num srcSeed dstSeed).put m k l x) k' l' =
      if k' = k ∧ l' = l then x else (bufferEnv num srcSeed dstSeed).dst m k' l' := by
  simpa [bufferEnv] using laneValue_writeLane (seed := dstSeed) (m := m) (sp := .dst) (l := l) (l' := l') (x := x) h h'

/-- A lane of SRC is untouched by a store to DST. -/
theorem src_put (m : Memory) {k k' : Nat} (l l' : Lane) (x : F64) (h : k < Config.nmax) (h' : k' < Config.nmax) :
    (bufferEnv num srcSeed dstSeed).src ((bufferEnv num srcSeed dstSeed).put m k l x) k' l' =
      (bufferEnv num srcSeed dstSeed).src m k' l' := by
  simpa [bufferEnv] using laneValue_writeLane (seed := srcSeed) (m := m) (sp := .src) (l := l) (l' := l') (x := x) h h'

/-- Every byte outside the stored lane is as before. -/
theorem readByte_put (m : Memory) (k : Nat) (l : Lane) (x : F64) {a : Nat}
    (h : ¬(Memory.offset .dst k l ≤ a ∧ a < Memory.offset .dst k l + 8)) :
    Memory.readByte ((bufferEnv num srcSeed dstSeed).put m k l x) a = Memory.readByte m a :=
  Memory.readByte_writeLane_outside m x (by omega)

/-- Every byte outside DST's window is as before. -/
theorem readByte_put_outside_dst (m : Memory) {k : Nat} (l : Lane) (x : F64) (hk : k < Config.nmax) {a : Nat}
    (h : Memory.inWindow .dst a = false) :
    Memory.readByte ((bufferEnv num srcSeed dstSeed).put m k l x) a = Memory.readByte m a := by
  refine readByte_put num srcSeed dstSeed m k l x fun ⟨h1, h2⟩ => ?_
  have := Memory.offset_inWindow .dst l hk (j := a - Memory.offset .dst k l) (by omega)
  rw [Nat.add_sub_cancel' h1] at this
  simp [this] at h

/-- A store keeps the canonical form. -/
theorem wf_put {m : Memory} (h : m.wf) (k : Nat) (l : Lane) (x : F64) :
    Memory.wf ((bufferEnv num srcSeed dstSeed).put m k l x) := Memory.wf_writeLane h _ _

/-- A store lists bytes of its own lane only. -/
theorem mem_put {m : Memory} {k : Nat} {l : Lane} {x : F64} {c : Host.Cell}
    (h : c ∈ (bufferEnv num srcSeed dstSeed).put m k l x) :
    (Memory.offset .dst k l ≤ c.1 ∧ c.1 < Memory.offset .dst k l + 8) ∨ c ∈ m := Memory.mem_writeLane h

/-! ### The stores of the working data -/

section Work

variable {M F : Type} (e : Env M F) (w : Work M F)

@[simp] theorem Work.put_mem (k : Nat) (re im : F) : (w.put e k re im).mem = e.put (e.put w.mem k .re re) k .im im := rfl
@[simp] theorem Work.put_regs (k : Nat) (re im : F) : (w.put e k re im).regs = w.regs := rfl
@[simp] theorem Work.put_draw (k : Nat) (re im : F) : (w.put e k re im).draw = w.draw := rfl
@[simp] theorem Work.putRe_mem (k : Nat) (re : F) : (w.putRe e k re).mem = e.put w.mem k .re re := rfl
@[simp] theorem Work.putRe_regs (k : Nat) (re : F) : (w.putRe e k re).regs = w.regs := rfl
@[simp] theorem Work.putRe_draw (k : Nat) (re : F) : (w.putRe e k re).draw = w.draw := rfl
@[simp] theorem Work.spend_mem (n : Nat) : (w.spend n).mem = w.mem := rfl
@[simp] theorem Work.spend_regs (n : Nat) : (w.spend n).regs = w.regs := rfl
@[simp] theorem Work.spend_draw (n : Nat) : (w.spend n).draw = w.draw + n := rfl

end Work

end Sys2Proof.Machine
end

