-- ==== Sys2Proof/Laws/Loops.lean ====
section
/-! SUPPORT. The loops of the procedures: how they unfold, split, and keep what their body keeps. -/

namespace Sys2Proof.Machine

variable {W V : Type}

@[simp] theorem forStride_zero (stride : Nat) (body : Nat → W → W) (i : Nat) (w : W) :
    forStride stride body 0 i w = w := rfl

theorem forStride_succ (stride : Nat) (body : Nat → W → W) (count i : Nat) (w : W) :
    forStride stride body (count + 1) i w = forStride stride body count (i + stride) (body i w) := rfl

/-- A loop is its first part and then the rest. -/
theorem forStride_add (stride : Nat) (body : Nat → W → W) (a b i : Nat) (w : W) :
    forStride stride body (a + b) i w = forStride stride body b (i + a * stride) (forStride stride body a i w) := by
  induction a generalizing i w with
  | zero => simp
  | succ a ih =>
    rw [show a + 1 + b = (a + b) + 1 by omega, forStride_succ, ih, forStride_succ]
    congr 1
    rw [Nat.succ_mul]; omega

/-- The last iteration of a loop. -/
theorem forStride_last (stride : Nat) (body : Nat → W → W) (count i : Nat) (w : W) :
    forStride stride body (count + 1) i w = body (i + count * stride) (forStride stride body count i w) := by
  rw [forStride_add, forStride_succ, forStride_zero]

/-- An invariant indexed by the number of iterations done. -/
theorem forStride_induction {P : Nat → W → Prop} {stride : Nat} {body : Nat → W → W} {i : Nat} {w : W} (count : Nat)
    (h0 : P 0 w) (hs : ∀ t w, t < count → P t w → P (t + 1) (body (i + t * stride) w)) :
    P count (forStride stride body count i w) := by
  induction count with
  | zero => exact h0
  | succ count ih =>
    rw [forStride_last]
    exact hs _ _ (Nat.lt_succ_self _) (ih fun t w ht => hs t w (Nat.lt_succ_of_lt ht))

/-- What every iteration keeps, the loop keeps. -/
theorem forStride_keeps {P : W → Prop} {stride : Nat} {body : Nat → W → W} (h : ∀ i w, P w → P (body i w))
    (count i : Nat) (w : W) (hw : P w) : P (forStride stride body count i w) :=
  forStride_induction (P := fun _ => P) count hw fun _ _ _ => h _ _

/-- Two loops whose bodies keep a relation end related. -/
theorem forStride_related {R : W → V → Prop} {stride : Nat} {body : Nat → W → W} {body' : Nat → V → V} {i : Nat} {w : W}
    {v : V} (count : Nat) (h0 : R w v)
    (hs : ∀ t w v, t < count → R w v → R (body (i + t * stride) w) (body' (i + t * stride) v)) :
    R (forStride stride body count i w) (forStride stride body' count i v) := by
  induction count with
  | zero => exact h0
  | succ count ih =>
    rw [forStride_last, forStride_last]
    exact hs _ _ _ (Nat.lt_succ_self _) (ih fun t w v ht => hs t w v (Nat.lt_succ_of_lt ht))

end Sys2Proof.Machine
end

