-- ==== Sys2Proof/Laws/State.lean ====
section
/-! SUPPORT. For each operation that builds a state, what each field is after it, true by rfl, so that no proof unfolds a
record update. -/

namespace Sys2Proof.Machine

/-! ### Acceptance (30_encoding R80). -/

@[simp] theorem State.accept_cmd (w : Word) (s : State) : (State.accept w s).cmd = some w := rfl
@[simp] theorem State.accept_len (w : Word) (s : State) : (State.accept w s).len = s.len := rfl
@[simp] theorem State.accept_status (w : Word) (s : State) : (State.accept w s).status = ⟨.busy, .none, w.extractLsb' 0 4, w.extractLsb' 4 1⟩ := rfl
@[simp] theorem State.accept_rlen (w : Word) (s : State) : (State.accept w s).rlen = 0 := rfl
@[simp] theorem State.accept_mem (w : Word) (s : State) : (State.accept w s).mem = s.mem := rfl
@[simp] theorem State.accept_regs (w : Word) (s : State) : (State.accept w s).regs = s.regs := rfl
@[simp] theorem State.accept_opAct (w : Word) (s : State) : (State.accept w s).opAct = w.extractLsb' 0 4 := rfl
@[simp] theorem State.accept_dAct (w : Word) (s : State) : (State.accept w s).dAct = directionOf (w.extractLsb' 4 1) := rfl
@[simp] theorem State.accept_nAct (w : Word) (s : State) : (State.accept w s).nAct = s.len := rfl
@[simp] theorem State.accept_seq (w : Word) (s : State) : (State.accept w s).seq = .validate := rfl
@[simp] theorem State.accept_draw (w : Word) (s : State) : (State.accept w s).draw = s.draw := rfl
@[simp] theorem State.accept_srcSeed (w : Word) (s : State) : (State.accept w s).srcSeed = s.srcSeed := rfl
@[simp] theorem State.accept_dstSeed (w : Word) (s : State) : (State.accept w s).dstSeed = s.dstSeed := rfl
@[simp] theorem State.accept_events (w : Word) (s : State) : (State.accept w s).events = s.events := rfl
@[simp] theorem State.accept_resp (w : Word) (s : State) : (State.accept w s).resp = s.resp := rfl

/-! ### Refusal (60_exceptions R178). -/

@[simp] theorem State.refuse_cmd (k : ErrorKind) (s : State) : (State.refuse k s).cmd = none := rfl
@[simp] theorem State.refuse_len (k : ErrorKind) (s : State) : (State.refuse k s).len = s.len := rfl
@[simp] theorem State.refuse_status (k : ErrorKind) (s : State) : (State.refuse k s).status = { s.status with err := k, state := .error } := rfl
@[simp] theorem State.refuse_rlen (k : ErrorKind) (s : State) : (State.refuse k s).rlen = s.rlen := rfl
@[simp] theorem State.refuse_mem (k : ErrorKind) (s : State) : (State.refuse k s).mem = s.mem := rfl
@[simp] theorem State.refuse_regs (k : ErrorKind) (s : State) : (State.refuse k s).regs = s.regs := rfl
@[simp] theorem State.refuse_opAct (k : ErrorKind) (s : State) : (State.refuse k s).opAct = s.opAct := rfl
@[simp] theorem State.refuse_dAct (k : ErrorKind) (s : State) : (State.refuse k s).dAct = s.dAct := rfl
@[simp] theorem State.refuse_nAct (k : ErrorKind) (s : State) : (State.refuse k s).nAct = s.nAct := rfl
@[simp] theorem State.refuse_seq (k : ErrorKind) (s : State) : (State.refuse k s).seq = .idle := rfl
@[simp] theorem State.refuse_draw (k : ErrorKind) (s : State) : (State.refuse k s).draw = s.draw := rfl
@[simp] theorem State.refuse_srcSeed (k : ErrorKind) (s : State) : (State.refuse k s).srcSeed = s.srcSeed := rfl
@[simp] theorem State.refuse_dstSeed (k : ErrorKind) (s : State) : (State.refuse k s).dstSeed = s.dstSeed := rfl
@[simp] theorem State.refuse_events (k : ErrorKind) (s : State) : (State.refuse k s).events = s.events := rfl
@[simp] theorem State.refuse_resp (k : ErrorKind) (s : State) : (State.refuse k s).resp = s.resp := rfl

/-! ### Completion (30_encoding R82). -/

@[simp] theorem State.complete_cmd (s : State) : (State.complete s).cmd = none := rfl
@[simp] theorem State.complete_len (s : State) : (State.complete s).len = s.len := rfl
@[simp] theorem State.complete_status (s : State) : (State.complete s).status = { s.status with state := .done } := rfl
@[simp] theorem State.complete_rlen (s : State) : (State.complete s).rlen = s.nAct := rfl
@[simp] theorem State.complete_mem (s : State) : (State.complete s).mem = s.mem := rfl
@[simp] theorem State.complete_regs (s : State) : (State.complete s).regs = s.regs := rfl
@[simp] theorem State.complete_opAct (s : State) : (State.complete s).opAct = s.opAct := rfl
@[simp] theorem State.complete_dAct (s : State) : (State.complete s).dAct = s.dAct := rfl
@[simp] theorem State.complete_nAct (s : State) : (State.complete s).nAct = s.nAct := rfl
@[simp] theorem State.complete_seq (s : State) : (State.complete s).seq = .idle := rfl
@[simp] theorem State.complete_draw (s : State) : (State.complete s).draw = s.draw := rfl
@[simp] theorem State.complete_srcSeed (s : State) : (State.complete s).srcSeed = s.srcSeed := rfl
@[simp] theorem State.complete_dstSeed (s : State) : (State.complete s).dstSeed = s.dstSeed := rfl
@[simp] theorem State.complete_events (s : State) : (State.complete s).events = s.events := rfl
@[simp] theorem State.complete_resp (s : State) : (State.complete s).resp = s.resp := rfl

/-! ### The start of a procedure (10_state R27, R38). -/

@[simp] theorem State.begin_cmd (s : State) : (State.begin s).cmd = s.cmd := rfl
@[simp] theorem State.begin_len (s : State) : (State.begin s).len = s.len := rfl
@[simp] theorem State.begin_status (s : State) : (State.begin s).status = s.status := rfl
@[simp] theorem State.begin_rlen (s : State) : (State.begin s).rlen = s.rlen := rfl
@[simp] theorem State.begin_mem (s : State) : (State.begin s).mem = s.mem.dropDst := rfl
@[simp] theorem State.begin_regs (s : State) : (State.begin s).regs = s.regs := rfl
@[simp] theorem State.begin_opAct (s : State) : (State.begin s).opAct = s.opAct := rfl
@[simp] theorem State.begin_dAct (s : State) : (State.begin s).dAct = s.dAct := rfl
@[simp] theorem State.begin_nAct (s : State) : (State.begin s).nAct = s.nAct := rfl
@[simp] theorem State.begin_seq (s : State) : (State.begin s).seq = s.seq := rfl
@[simp] theorem State.begin_draw (s : State) : (State.begin s).draw = s.draw + 1 := rfl
@[simp] theorem State.begin_srcSeed (s : State) : (State.begin s).srcSeed = s.srcSeed := rfl
@[simp] theorem State.begin_dstSeed (s : State) : (State.begin s).dstSeed = s.draw + 1 := rfl
@[simp] theorem State.begin_events (s : State) : (State.begin s).events = s.events := rfl
@[simp] theorem State.begin_resp (s : State) : (State.begin s).resp = s.resp := rfl

/-! ### The working data put back. -/

@[simp] theorem State.withWork_cmd (w : Work Memory F64) (s : State) : (State.withWork s w).cmd = s.cmd := rfl
@[simp] theorem State.withWork_len (w : Work Memory F64) (s : State) : (State.withWork s w).len = s.len := rfl
@[simp] theorem State.withWork_status (w : Work Memory F64) (s : State) : (State.withWork s w).status = s.status := rfl
@[simp] theorem State.withWork_rlen (w : Work Memory F64) (s : State) : (State.withWork s w).rlen = s.rlen := rfl
@[simp] theorem State.withWork_mem (w : Work Memory F64) (s : State) : (State.withWork s w).mem = w.mem := rfl
@[simp] theorem State.withWork_regs (w : Work Memory F64) (s : State) : (State.withWork s w).regs = w.regs := rfl
@[simp] theorem State.withWork_opAct (w : Work Memory F64) (s : State) : (State.withWork s w).opAct = s.opAct := rfl
@[simp] theorem State.withWork_dAct (w : Work Memory F64) (s : State) : (State.withWork s w).dAct = s.dAct := rfl
@[simp] theorem State.withWork_nAct (w : Work Memory F64) (s : State) : (State.withWork s w).nAct = s.nAct := rfl
@[simp] theorem State.withWork_seq (w : Work Memory F64) (s : State) : (State.withWork s w).seq = s.seq := rfl
@[simp] theorem State.withWork_draw (w : Work Memory F64) (s : State) : (State.withWork s w).draw = w.draw := rfl
@[simp] theorem State.withWork_srcSeed (w : Work Memory F64) (s : State) : (State.withWork s w).srcSeed = s.srcSeed := rfl
@[simp] theorem State.withWork_dstSeed (w : Work Memory F64) (s : State) : (State.withWork s w).dstSeed = s.dstSeed := rfl
@[simp] theorem State.withWork_events (w : Work Memory F64) (s : State) : (State.withWork s w).events = s.events := rfl
@[simp] theorem State.withWork_resp (w : Work Memory F64) (s : State) : (State.withWork s w).resp = s.resp := rfl

/-! ### seq <- q. -/

@[simp] theorem State.goto_cmd (q : Seq) (s : State) : (State.goto s q).cmd = s.cmd := rfl
@[simp] theorem State.goto_len (q : Seq) (s : State) : (State.goto s q).len = s.len := rfl
@[simp] theorem State.goto_status (q : Seq) (s : State) : (State.goto s q).status = s.status := rfl
@[simp] theorem State.goto_rlen (q : Seq) (s : State) : (State.goto s q).rlen = s.rlen := rfl
@[simp] theorem State.goto_mem (q : Seq) (s : State) : (State.goto s q).mem = s.mem := rfl
@[simp] theorem State.goto_regs (q : Seq) (s : State) : (State.goto s q).regs = s.regs := rfl
@[simp] theorem State.goto_opAct (q : Seq) (s : State) : (State.goto s q).opAct = s.opAct := rfl
@[simp] theorem State.goto_dAct (q : Seq) (s : State) : (State.goto s q).dAct = s.dAct := rfl
@[simp] theorem State.goto_nAct (q : Seq) (s : State) : (State.goto s q).nAct = s.nAct := rfl
@[simp] theorem State.goto_seq (q : Seq) (s : State) : (State.goto s q).seq = q := rfl
@[simp] theorem State.goto_draw (q : Seq) (s : State) : (State.goto s q).draw = s.draw := rfl
@[simp] theorem State.goto_srcSeed (q : Seq) (s : State) : (State.goto s q).srcSeed = s.srcSeed := rfl
@[simp] theorem State.goto_dstSeed (q : Seq) (s : State) : (State.goto s q).dstSeed = s.dstSeed := rfl
@[simp] theorem State.goto_events (q : Seq) (s : State) : (State.goto s q).events = s.events := rfl
@[simp] theorem State.goto_resp (q : Seq) (s : State) : (State.goto s q).resp = s.resp := rfl

/-! ### The port's answer. -/

@[simp] theorem State.answer_cmd (r : Response) (s : State) : (State.answer r s).cmd = s.cmd := rfl
@[simp] theorem State.answer_len (r : Response) (s : State) : (State.answer r s).len = s.len := rfl
@[simp] theorem State.answer_status (r : Response) (s : State) : (State.answer r s).status = s.status := rfl
@[simp] theorem State.answer_rlen (r : Response) (s : State) : (State.answer r s).rlen = s.rlen := rfl
@[simp] theorem State.answer_mem (r : Response) (s : State) : (State.answer r s).mem = s.mem := rfl
@[simp] theorem State.answer_regs (r : Response) (s : State) : (State.answer r s).regs = s.regs := rfl
@[simp] theorem State.answer_opAct (r : Response) (s : State) : (State.answer r s).opAct = s.opAct := rfl
@[simp] theorem State.answer_dAct (r : Response) (s : State) : (State.answer r s).dAct = s.dAct := rfl
@[simp] theorem State.answer_nAct (r : Response) (s : State) : (State.answer r s).nAct = s.nAct := rfl
@[simp] theorem State.answer_seq (r : Response) (s : State) : (State.answer r s).seq = s.seq := rfl
@[simp] theorem State.answer_draw (r : Response) (s : State) : (State.answer r s).draw = s.draw := rfl
@[simp] theorem State.answer_srcSeed (r : Response) (s : State) : (State.answer r s).srcSeed = s.srcSeed := rfl
@[simp] theorem State.answer_dstSeed (r : Response) (s : State) : (State.answer r s).dstSeed = s.dstSeed := rfl
@[simp] theorem State.answer_events (r : Response) (s : State) : (State.answer r s).events = s.events := rfl
@[simp] theorem State.answer_resp (r : Response) (s : State) : (State.answer r s).resp = r := rfl

/-! ### Reset (70 R190). -/

@[simp] theorem State.afterReset_cmd (s : State) : (State.afterReset s).cmd = none := rfl
@[simp] theorem State.afterReset_len (s : State) : (State.afterReset s).len = 0 := rfl
@[simp] theorem State.afterReset_status (s : State) : (State.afterReset s).status = Status.reset := rfl
@[simp] theorem State.afterReset_rlen (s : State) : (State.afterReset s).rlen = 0 := rfl
@[simp] theorem State.afterReset_mem (s : State) : (State.afterReset s).mem = [] := rfl
@[simp] theorem State.afterReset_regs (s : State) : (State.afterReset s).regs = Regs.reset := rfl
@[simp] theorem State.afterReset_opAct (s : State) : (State.afterReset s).opAct = 0 := rfl
@[simp] theorem State.afterReset_dAct (s : State) : (State.afterReset s).dAct = .forward := rfl
@[simp] theorem State.afterReset_nAct (s : State) : (State.afterReset s).nAct = 0 := rfl
@[simp] theorem State.afterReset_seq (s : State) : (State.afterReset s).seq = .idle := rfl
@[simp] theorem State.afterReset_draw (s : State) : (State.afterReset s).draw = s.draw + 1 := rfl
@[simp] theorem State.afterReset_srcSeed (s : State) : (State.afterReset s).srcSeed = s.draw + 1 := rfl
@[simp] theorem State.afterReset_dstSeed (s : State) : (State.afterReset s).dstSeed = s.draw + 1 := rfl
@[simp] theorem State.afterReset_events (s : State) : (State.afterReset s).events = s.events := rfl
@[simp] theorem State.afterReset_resp (s : State) : (State.afterReset s).resp = .nothing := rfl

/-! ### What procedures see of a state -/

@[simp] theorem State.work_mem (s : State) : s.work.mem = s.mem := rfl
@[simp] theorem State.work_regs (s : State) : s.work.regs = s.regs := rfl
@[simp] theorem State.work_draw (s : State) : s.work.draw = s.draw := rfl
@[simp] theorem State.withWork_work (s : State) : s.withWork s.work = s := rfl
@[simp] theorem State.work_withWork (s : State) (w : Work Memory F64) : (s.withWork w).work = w := rfl
@[simp] theorem State.env_withWork (s : State) (w : Work Memory F64) : (s.withWork w).env = s.env := rfl
@[simp] theorem State.env_goto (s : State) (q : Seq) : (s.goto q).env = s.env := rfl
@[simp] theorem State.work_goto (s : State) (q : Seq) : (s.goto q).work = s.work := rfl
@[simp] theorem State.env_accept (s : State) (w : Word) : (s.accept w).env = s.env := rfl
@[simp] theorem State.env_answer (s : State) (r : Response) : (s.answer r).env = s.env := rfl
@[simp] theorem State.env_num (s : State) : s.env.num = coreNum := rfl
@[simp] theorem State.env_src (s : State) (m : Memory) (k : Nat) (l : Lane) :
    s.env.src m k l = laneValue s.srcSeed m .src k l := rfl
@[simp] theorem State.env_dst (s : State) (m : Memory) (k : Nat) (l : Lane) :
    s.env.dst m k l = laneValue s.dstSeed m .dst k l := rfl
@[simp] theorem State.env_put (s : State) (m : Memory) (k : Nat) (l : Lane) (x : F64) :
    s.env.put m k l x = m.writeLane (Memory.offset .dst k l) x := rfl

theorem State.busy_iff (s : State) : s.busy = true ↔ s.status.state = .busy := by simp [State.busy]
@[simp] theorem State.accept_busy (s : State) (w : Word) : (s.accept w).busy = true := rfl
@[simp] theorem State.refuse_busy (s : State) (k : ErrorKind) : (s.refuse k).busy = false := rfl
@[simp] theorem State.complete_busy (s : State) : s.complete.busy = false := rfl
@[simp] theorem State.answer_busy (s : State) (r : Response) : (s.answer r).busy = s.busy := rfl
@[simp] theorem State.begin_busy (s : State) : s.begin.busy = s.busy := rfl
@[simp] theorem State.withWork_busy (s : State) (w : Work Memory F64) : (s.withWork w).busy = s.busy := rfl
@[simp] theorem State.goto_busy (s : State) (q : Seq) : (s.goto q).busy = s.busy := rfl

end Sys2Proof.Machine
end

