-- ==== Sys2Proof/Laws/Ops.lean ====
section
/-! SUPPORT. For each shared operation, once, everything it can do. -/

namespace Sys2Proof.Machine

/-- ispow2 says power of two (00_scope R12). -/
theorem ispow2_iff (n : Nat) : ispow2 n = true ↔ ∃ t, n = 2 ^ t := by
  constructor
  · intro h
    simp only [ispow2, Bool.and_eq_true, bne_iff_ne, ne_eq, beq_iff_eq] at h
    exact (Nat.and_sub_one_eq_zero_iff_isPowerOfTwo h.1).1 h.2
  · rintro ⟨t, rfl⟩
    have h0 : (2 ^ t : Nat) ≠ 0 := by positivity
    simp only [ispow2, Bool.and_eq_true, bne_iff_ne, ne_eq, beq_iff_eq]
    exact ⟨h0, (Nat.and_sub_one_eq_zero_iff_isPowerOfTwo h0).2 ⟨t, rfl⟩⟩

/-- The procedure of each command. -/
def procedureOf : Instr → Procedure
  | .fftFwd => fftForward
  | .fftInv => fftInverse
  | .fht    => hartley
  | .mag    => magnitude
  | .phase  => phases

theorem exec_eq (i : Instr) (s : State) : exec i s = runCommand i (procedureOf i) s := by cases i <;> rfl

/-- The state a completed command leaves. -/
def completedState (i : Instr) (s : State) : State := ((s.accept (encode i)).begin.perform (procedureOf i)).complete

theorem conclude_refused {i : Instr} {proc : Procedure} {s : State} {k : ErrorKind}
    (h : validateLength i s.nAct.toNat = some k) : s.conclude i proc = s.refuse k := by simp [State.conclude, h]

theorem conclude_completed {i : Instr} {proc : Procedure} {s : State} (h : validateLength i s.nAct.toNat = none) :
    s.conclude i proc = (s.begin.perform proc).complete := by simp [State.conclude, h]

/-- All that exec can do: nothing while BUSY, a refusal, or the completed command. -/
theorem exec_cases {i : Instr} {s : State} {o : Host.Outcome State Fault Refusal} (h : exec i s = o) :
    (s.busy = true ∧ o = .next s) ∨
    (∃ k, s.busy = false ∧ validateLength i s.len.toNat = some k ∧ o = .next ((s.accept (encode i)).refuse k)) ∨
    (s.busy = false ∧ validateLength i s.len.toNat = none ∧ o = .next (completedState i s)) := by
  subst h
  rw [exec_eq, runCommand]
  cases hb : s.busy
  · cases hv : validateLength i s.len.toNat with
    | none => exact .inr (.inr ⟨rfl, rfl, by simp [conclude_completed, hv, completedState]⟩)
    | some k => exact .inr (.inl ⟨k, rfl, rfl, by simp [conclude_refused, hv]⟩)
  · exact .inl ⟨rfl, by simp⟩

@[simp] theorem perform_eq (proc : Procedure) (s : State) :
    s.perform proc = s.withWork (proc s.env s.nAct.toNat s.work) := rfl

/-! ### The loop assignments: registers only (42_fft R112, 43_hartley R134) -/

section Loops

variable {M F : Type} (e : Env M F) (w : Work M F)

@[simp] theorem setStep_mem (v : Nat) : (setStep v w).mem = w.mem := rfl
@[simp] theorem setStep_draw (v : Nat) : (setStep v w).draw = w.draw := rfl
@[simp] theorem stageGroupEnter_mem (g : Nat) : (stageGroupEnter g w).mem = w.mem := rfl
@[simp] theorem stageGroupEnter_draw (g : Nat) : (stageGroupEnter g w).draw = w.draw := rfl
@[simp] theorem ladderEnter_mem (n : Nat) : (ladderEnter n w).mem = w.mem := rfl
@[simp] theorem ladderEnter_draw (n : Nat) : (ladderEnter n w).draw = w.draw := rfl
@[simp] theorem levelEnter_mem : (levelEnter w).mem = w.mem := rfl
@[simp] theorem levelEnter_draw : (levelEnter w).draw = w.draw := rfl
@[simp] theorem ladderGroupEnter_mem (level : Nat) : (ladderGroupEnter level w).mem = w.mem := rfl
@[simp] theorem ladderGroupEnter_draw (level : Nat) : (ladderGroupEnter level w).draw = w.draw := rfl
@[simp] theorem ladderGroupLeave_mem (level g : Nat) : (ladderGroupLeave level g w).mem = w.mem := rfl
@[simp] theorem ladderGroupLeave_draw (level g : Nat) : (ladderGroupLeave level g w).draw = w.draw := rfl
@[simp] theorem levelLeave_mem (n level : Nat) : (levelLeave n level w).mem = w.mem := rfl
@[simp] theorem levelLeave_draw (n level : Nat) : (levelLeave n level w).draw = w.draw := rfl

@[simp] theorem setStep_regs (v : Nat) : (setStep v w).regs = { w.regs with sStep := v } := rfl
@[simp] theorem stageGroupEnter_regs (g : Nat) : (stageGroupEnter g w).regs = { w.regs with g := g, p := g } := rfl
@[simp] theorem ladderEnter_regs (n : Nat) : (ladderEnter n w).regs = { w.regs with scale := n / 2, level := 2 } := rfl
@[simp] theorem levelEnter_regs : (levelEnter w).regs = { w.regs with g := 0 } := rfl
@[simp] theorem ladderGroupEnter_regs (level : Nat) :
    (ladderGroupEnter level w).regs = { w.regs with i := 1, j := level / 2 - 1 } := rfl
@[simp] theorem ladderGroupLeave_regs (level g : Nat) :
    (ladderGroupLeave level g w).regs = { w.regs with g := g + level } := rfl
@[simp] theorem levelLeave_regs (n level : Nat) :
    (levelLeave n level w).regs = { w.regs with scale := n / level / 2, level := 2 * level } := rfl

/-- The pair, the rotation and the combination leave every other loop register. -/
@[simp] theorem stagePair_regs (s p : Nat) : (stagePair e s p w).regs = { w.regs with p := p + 2 * s } := rfl
@[simp] theorem ladderRot_regs (n level g i j : Nat) :
    (ladderRot e n level g i j w).regs = { w.regs with i := i + 1, j := j - 1 } := rfl
@[simp] theorem ladderAddSub_regs (level g i : Nat) : (ladderAddSub e level g i w).regs = { w.regs with i := i } := rfl

end Loops

/-! ### Steps -/

theorem step_nil {s : State} (h : s.events = []) : step s = .next s.turn := by simp [step, h]

theorem step_cons {s : State} {ev : Event} {evs : List Event} (h : s.events = ev :: evs) :
    step s = happen ev { s with events := evs } := by simp [step, h]

theorem present_events (s : State) (w : Word) : (s.present w).events = .command w :: s.events := rfl

/-- A core that is not BUSY is presented a word with nothing but its events changed. -/
theorem present_not_busy {s : State} (h : s.busy = false) (w : Word) :
    s.present w = { s with events := .command w :: s.events } := by simp [State.present, State.ready, h]

/-! ### Turns of the sequencer -/

@[simp] theorem turns_zero (s : State) : s.turns 0 = s := rfl

theorem turns_succ (n : Nat) (s : State) : s.turns (n + 1) = s.turn.turns n := rfl

theorem turns_add (a b : Nat) (s : State) : s.turns (a + b) = (s.turns a).turns b := by
  induction a generalizing s with
  | zero => simp
  | succ a ih => rw [show a + 1 + b = (a + b) + 1 by omega, turns_succ, turns_succ, ih]

end Sys2Proof.Machine
end

