-- ==== Sys2Proof/Laws/PerInstr.lean ====
section
/-! SUPPORT. What holds of every command as syntax, one lemma for each constructor. -/

namespace Sys2Proof.Laws.LegalFields

/-- The command is well formed, and its word has its fields (30_encoding R70 to R72). -/
def Statement (i : Instr) : Prop := i.wellFormed = true ∧ fieldsOf (encode i) = i.fields

theorem fftFwd : Statement .fftFwd := ⟨rfl, rfl⟩
theorem fftInv : Statement .fftInv := ⟨rfl, rfl⟩
theorem fht : Statement .fht := ⟨rfl, rfl⟩
theorem mag : Statement .mag := ⟨rfl, rfl⟩
theorem phase : Statement .phase := ⟨rfl, rfl⟩

end Sys2Proof.Laws.LegalFields
end

