-- ==== Sys2Proof/Tests/Slice0.lean ====
section
/-! SUPPORT. Tests on fixed values, their expected results taken from spec/95_test_vectors.md and the rules, and for every
statement with hypotheses a witness that meets them. -/

namespace Sys2Proof.Tests

open Sys2Proof.Machine

/-! ### Helpers -/

/-- The next state of an outcome. -/
def nextOf : Host.Outcome State Fault Refusal → Option State
  | .next s => some s
  | .fault _ => none
  | .refused _ => none

/-- A core after reset, with the pairs x in SRC and n in LEN, as a host writes them. -/
def loaded (n : Nat) (x : List (F64 × F64)) : State :=
  x.zipIdx.foldl (fun s e => (s.writeBuf e.2 .re e.1.1).writeBuf e.2 .im e.1.2)
    (State.reset.writeReg 1 (BitVec.ofNat 32 n))

/-- STATUS and the first n results after an outcome. -/
def result (n : Nat) (o : Host.Outcome State Fault Refusal) : Option (Word × List (F64 × F64)) :=
  (nextOf o).map fun s => (s.status.word, (List.range n).map fun k => (s.dst k .re, s.dst k .im))

/-- Small integers as values of F. -/
def v (x : Int) : F64 := Float64.fromInt x

/-- A sine given by a table of its values, 0 elsewhere: the values of 41_twiddle R105 and of 00_scope R8 under NUM.cr at
the arguments an FFT of up to eight points uses, signs apart. -/
def sineTable (a : F64) : F64 :=
  if a = 0x400921FB54442D18#64 then 0x3CA1A62633145C07#64
  else if a = 0x3FF921FB54442D18#64 then 0x3FF0000000000000#64
  else if a = 0x3FE921FB54442D18#64 then 0x3FE6A09E667F3BCC#64
  else if a = 0x3FD921FB54442D18#64 then 0x3FD87DE2A6AEA963#64
  else 0#64

/-- The two cosines and sines an FHT of eight points reads, 95 V-FHT-8. -/
def cosineTable (a : F64) : F64 := if a = 0x3FE921FB54442D18#64 then 0x3FE6A09E667F3BCD#64 else 0#64

/-- NUM with those tables. -/
def tableNum : Num F64 := Float64.num sineTable cosineTable fun _ _ => 0#64

/-! ### Decoding: the words of 30_encoding R72, bit by bit -/

theorem test_decode_fftFwd : decode 0b00000000000000000000000000000001#32 = .ok .fftFwd := by decide
theorem test_decode_fftInv : decode 0b00000000000000000000000000010001#32 = .ok .fftInv := by decide
theorem test_decode_fht : decode 0b00000000000000000000000000000010#32 = .ok .fht := by decide
theorem test_decode_mag : decode 0b00000000000000000000000000000011#32 = .ok .mag := by decide
theorem test_decode_phase : decode 0b00000000000000000000000000000100#32 = .ok .phase := by decide

/-- V-DEC-6 to V-DEC-14. -/
theorem test_decode_illegal :
    decode 0x00000000 = .illegal .opZero ∧ decode 0x00000005 = .illegal .opUnassigned ∧
    decode 0x0000000F = .illegal .opUnassigned ∧ decode 0x00000012 = .illegal .dirNotAllowed ∧
    decode 0x00000013 = .illegal .dirNotAllowed ∧ decode 0x00000014 = .illegal .dirNotAllowed ∧
    decode 0x00000010 = .illegal .dirNotAllowed ∧ decode 0x00000021 = .illegal .reservedBits ∧
    decode 0x80000001 = .illegal .reservedBits ∧ decode 0xFFFFFFFF = .illegal .reservedBits := by decide

theorem test_decodeTableWord : decodeTableWord 32 0x11 = some .fftInv ∧ decodeTableWord 8 0x103 = some .mag ∧
    decodeTableWord 40 0x1 = none := by decide

/-! ### Well-formedness: an ill-formed term for each check -/

theorem test_illformed_reserved : Fields.wellFormed ⟨1, 0, 1⟩ = false ∧ Fields.reservedZero ⟨1, 0, 1⟩ = false := by decide
theorem test_illformed_op : Fields.wellFormed ⟨0, 0, 5⟩ = false ∧ Fields.opLegal ⟨0, 0, 5⟩ = false ∧
    Fields.opLegal ⟨0, 0, 0⟩ = false := by decide
theorem test_illformed_dir : Fields.wellFormed ⟨0, 1, 2⟩ = false ∧ Fields.dirLegal ⟨0, 1, 2⟩ = false := by decide

/-! ### One step of each command -/

/-- V-FFT-2; V-FFT-9, the sign of a zero. -/
theorem test_fftFwd :
    result 2 (exec .fftFwd (loaded 2 [(v 1, v 2), (v 3, v 4)])) =
      some (0x00000102, [(v 4, v 6), (v (-2), v (-2))]) ∧
    result 2 (exec .fftFwd (loaded 2 [(0#64, 0#64), (0x8000000000000000#64, v (-1))])) =
      some (0x00000102, [(0#64, v (-1)), (0#64, v 1)]) := by decide +kernel

/-- V-FFT-2. -/
theorem test_fftInv : result 2 (exec .fftInv (loaded 2 [(v 4, v 6), (v (-2), v (-2))])) =
    some (0x00001102, [(v 1, v 2), (v 3, v 4)]) := by decide +kernel

/-- V-FHT-4, the imaginary lanes of SRC ignored; V-FHT-2. -/
theorem test_fht :
    result 4 (exec .fht (loaded 4 [(v 1, v 77), (v 2, v 0), (v 3, v 0), (v 4, v 0)])) =
      some (0x00000202, [(v 5, 0#64), (v (-2), 0#64), (v (-1), 0#64), (0#64, 0#64)]) ∧
    result 2 (exec .fht (loaded 2 [(v 1, v 0), (v 2, v 0)])) =
      some (0x00000202, [(0x4000F876CCDF6CD9#64, 0#64), (0xBFE6A09E667F3BCC#64, 0#64)]) := by decide +kernel

/-- V-MAG-2, V-MAG-4, V-MAG-5. -/
theorem test_mag : result 3 (exec .mag (loaded 3 [(v (-3), v 4), (v 1, v 1), (0#64, 0x8000000000000000#64)])) =
    some (0x00000302, [(v 5, 0#64), (0x3FF6A09E667F3BCD#64, 0#64), (0#64, 0#64)]) := by decide +kernel

/-- V-MAG-8, V-MAG-10: subnormal squares, an infinity. -/
theorem test_mag_range : result 2 (exec .mag (loaded 2
    [(0x1E659843E8C86A09#64, 0x1E6CCB0536608D61#64), (0xFFF0000000000000#64, v 1)])) =
    some (0x00000302, [(0x1E71E3779B97F4A8#64, 0#64), (0x7FF0000000000000#64, 0#64)]) := by decide +kernel

/-- V-PH-4, V-PH-7, V-PH-10, V-PH-15: the argument order and the signs. -/
theorem test_phase : result 4 (exec .phase (loaded 4
    [(0x8000000000000000#64, 0#64), (v 1, v 0), (v 0, v (-1)), (v 1, 0xFFF0000000000000#64)])) =
    some (0x00000402, [(0x8000000000000000#64, 0#64), (0x3FF921FB54442D18#64, 0#64), (0x400921FB54442D18#64, 0#64),
      (0x400921FB54442D18#64, 0#64)]) := by decide +kernel

/-! ### Steps, host port, byte map -/

/-- The table's words as the first step after reset: LEN is 0 (70 R192). -/
theorem test_step_after_reset :
    result 0 (step (State.reset.withFetchWord 32 0x11)) = some (0x00001123, []) ∧
    result 0 (step (State.reset.withFetchWord 32 0x03)) = some (0x00000302, []) ∧
    result 0 (step (State.reset.withFetchWord 32 0x12)) = some (0x00001253, []) := by decide +kernel

/-- V-ERR-2, V-ERR-10, V-ERR-11, V-ERR-13, V-ERR-14: the causes and their priority. -/
theorem test_refusals :
    result 0 (issue 0x11 (loaded 3 [])) = some (0x00001123, []) ∧
    result 0 (issue 0x4 (loaded 4294967295 [])) = some (0x00000443, []) ∧
    result 0 (issue 0x1 (loaded 3000 [])) = some (0x00000123, []) ∧
    result 0 (issue 0x2 (loaded 4096 [])) = some (0x00000243, []) ∧
    result 0 (issue 0x12 (loaded 3 [])) = some (0x00001253, []) := by decide +kernel

/-- V-REG-1 to V-REG-4. -/
theorem test_registers :
    (List.range 5).map State.reset.regValue = [0, 0, 0, 0, 0x00000400] ∧
    (State.reset.transact (.writeReg 1 8)).regValue 1 = 8 ∧
    ((State.reset.transact (.writeReg 2 0xFFFFFFFF)).transact (.writeReg 4 7)).regValue 4 = 0x400 ∧
    (State.reset.transact (.writeReg 7 1)).regValue 7 = 0 := by decide +kernel

/-- V-REG-6, V-REG-7: while BUSY. -/
theorem test_busy_lockout :
    let s := (loaded 4 [(v 1, v 0)]).writeReg 0 0x1
    (s.writeReg 1 16).len = 4 ∧ (s.writeBuf 0 .re (v 9)).src 0 .re = v 1 ∧ (s.writeReg 0 0x3) = s ∧
    s.regValue 2 = 0x00000101 ∧ s.regValue 3 = 0 := by decide +kernel

/-- V-REG-8: the bytes of SRC[0].re = 1.0. -/
theorem test_little_endian :
    (loaded 0 [(v 1, v 0)]).mem.take 8 = [(0x4000, 0x00), (0x4001, 0x00), (0x4002, 0x00), (0x4003, 0x00), (0x4004, 0x00),
      (0x4005, 0x00), (0x4006, 0xF0), (0x4007, 0x3F)] := by decide +kernel

/-- V-REG-9, V-REG-10, at BASE = 0x10000. -/
theorem test_byte_map :
    busSlot 0x10000 8 0x14038 = some (.lane .src 3 .im) ∧ busSlot 0x10000 8 0x18030 = some (.lane .dst 3 .re) ∧
    busSlot 0x10000 8 0x1BFF8 = some (.lane .dst 1023 .im) ∧ busSlot 0x10000 8 0x10028 = some .reserved ∧
    busSlot 0x10000 4 0x10010 = none ∧ busSlot 0x10000 8 0x10014 = none ∧ busSlot 0x10000 8 0x20000 = none := by
  decide +kernel

/-- V-REG-11: a register read through the wrapper, at BASE = 0x10000, after V-ERR-1. -/
theorem test_bus_read :
    (nextOf (exec .fftFwd (loaded 3 []))).map (fun s => (s.busRead 0x10000 8 0x10010).resp) =
      some (.bus 0x0000000000000123) := by decide +kernel

/-! ### Micro-operations and numbers -/

/-- 95, part 2.5: one TW.ADV from MUL = (−0.5, 0.5), TW = (2, 4). -/
theorem test_twAdv :
    let w : Work Unit F64 := twAdv tableNum
      ⟨(), { Regs.reset with mulRe := 0xBFE0000000000000#64, mulIm := 0x3FE0000000000000#64, twRe := v 2, twIm := v 4 }, 0⟩
    (w.regs.twRe, w.regs.twIm) = (v (-1), v 3) := by decide +kernel

/-- 41_twiddle R105: TW.SETUP(+1, 4), and the factors of groups 2 and 3. -/
theorem test_twiddle_table :
    let w : Work Unit F64 := ⟨(), Regs.reset, 0⟩
    let u := (twSetup tableNum .forward 4 w).regs
    let f := (factorAfter tableNum .forward 4 2 w).regs
    let f' := (factorAfter tableNum .forward 4 3 w).regs
    (u.delta, u.sine, u.mulRe, u.mulIm) =
      (0xBFE921FB54442D18#64, 0xBFD87DE2A6AEA963#64, 0xBFD2BEC333018867#64, 0xBFE6A09E667F3BCC#64) ∧
    (f.twRe, f.twIm) = (0#64, 0xBFEFFFFFFFFFFFFE#64) ∧
    (f'.twRe, f'.twIm) = (0xBFE6A09E667F3BCB#64, 0xBFE6A09E667F3BCB#64) := by decide +kernel

/-- V-FFT-7: eight points. -/
theorem test_fft_eight :
    let r := resultOf tableNum Regs.reset fftForward 8 (fun k => (v k, 0#64))
    (List.range 8).map r = [
      (0x403C000000000000, 0x0000000000000000), (0xC010000000000002, 0x4023504F333F9DE6),
      (0xC010000000000000, 0x400FFFFFFFFFFFFE), (0xC00FFFFFFFFFFFFF, 0x3FFA827999FCEF28),
      (0xC010000000000000, 0x0000000000000000), (0xC010000000000000, 0xBFFA827999FCEF30),
      (0xC010000000000000, 0xC00FFFFFFFFFFFFE), (0xC00FFFFFFFFFFFFD, 0xC023504F333F9DE5)] := by decide +kernel

/-- V-FFT-5: FFT.INV of an impulse at index 1, four points. -/
theorem test_ifft_four :
    let r := resultOf tableNum Regs.reset fftInverse 4 (fun k => (if k = 1 then v 1 else 0#64, 0#64))
    (List.range 4).map r = [
      (0x3FD0000000000000, 0x0000000000000000), (0x3C90000000000000, 0x3FD0000000000000),
      (0xBFD0000000000000, 0x0000000000000000), (0xBC90000000000000, 0xBFD0000000000000)] := by decide +kernel

/-- V-FHT-8: eight points, with a rotation. -/
theorem test_fht_eight :
    let r := resultOf tableNum Regs.reset hartley 8 (fun k => (v (k + 1), v 1))
    (List.range 8).map r = [
      (0x402974B2334F2346, 0), (0xC013504F333F9DE6, 0), (0xC006A09E667F3BCC, 0), (0xBFFFFFFFFFFFFFFF, 0),
      (0xBFF6A09E667F3BCC, 0), (0xBFEA827999FCEF31, 0), (0x0000000000000000, 0), (0x3FFFFFFFFFFFFFFF, 0)] := by
  decide +kernel

/-- 00_scope R11: the examples, and rounding to even at 2^53 + 1. -/
theorem test_encoding_of_values :
    Float64.fromNat 1 = 0x3FF0000000000000#64 ∧ Float64.fromNat 5 = 0x4014000000000000#64 ∧
    Float64.div 0 (v 1) (v 4) = 0x3FD0000000000000#64 ∧ Float64.neg Float64.zero = 0x8000000000000000#64 ∧
    Float64.fromNat (2 ^ 53 + 1) = Float64.fromNat (2 ^ 53) ∧
    Float64.add 0 0x7FEFFFFFFFFFFFFF#64 0x7FEFFFFFFFFFFFFF#64 = 0x7FF0000000000000#64 := by decide +kernel

/-- T-3 and 48 R162: the quadrant swap, an uneven grid, a ragged one. -/
theorem test_quadrantSwap :
    Grid.quadrantLoops 4 4 [[1, 0, 0, 0], [0, 0, 0, 0], [0, 0, 0, 0], [0, 0, 0, 0]] =
      [[0, 0, 0, 0], [0, 0, 0, 0], [0, 0, 1, 0], [0, 0, 0, 0]] ∧
    (match Grid.quadrantSwap [[1, 2], [3]] with | .ok _ => false | .error k => k == .invalidShape) = true := by
  decide +kernel

/-- 43_hartley R134 and 42_fft R112 for N = 4: after FHT the scale is 0 and the level 2N, J is half - 1 of the last
group, which has no rotation; after FFT.FWD the step size is N. -/
theorem test_loop_registers :
    let t := nextOf (exec .fht (loaded 4 []))
    let u := nextOf (exec .fftFwd (loaded 4 []))
    t.map (fun s => (s.regs.scale, s.regs.level, s.regs.g, s.regs.i, s.regs.j)) = some (0, 8, 4, 1, 1) ∧
    u.map (fun s => (s.regs.sStep, s.regs.jump, s.regs.g, s.regs.p)) = some (4, 4, 1, 5) := by decide +kernel

/-- 48 R160, R161: the lengths 3 and 5 of the source's examples, and 6, which only the Hartley transform takes. -/
theorem test_reference_lengths :
    naiveDftAccepts 3 = false ∧ naiveDftAccepts 1 = false ∧ naiveDftAccepts 6 = false ∧ naiveDftAccepts 2 = true ∧
    naiveDhtAccepts 5 = false ∧ naiveDhtAccepts 6 = true := by decide

/-- 48 R163: on two points nothing overflows for 1 and 2, and the sum does for twice the largest finite value. -/
theorem test_no_overflow :
    let y := fun a b => resultOf (checkedNum tableNum) (Regs.reset.map Float64.keepFinite) (fftOf .forward) 2
      (fun k => (Float64.keepFinite (if k = 0 then a else b), Float64.keepFinite 0#64))
    (y (v 1) (v 2) 0).1 = some (v 3) ∧ (y 0x7FEFFFFFFFFFFFFF#64 0x7FEFFFFFFFFFFFFF#64 0).1 = none := by decide +kernel

/-- 00_scope R9, IEEE 754: infinities and a zero divisor. -/
theorem test_infinities :
    Float64.div 0 0xFFF0000000000000#64 (v 2) = 0xFFF0000000000000#64 ∧
    Float64.div 0 (v (-1)) 0#64 = 0xFFF0000000000000#64 ∧ Float64.div 0 (v (-1)) 0x7FF0000000000000#64 = 0x8000000000000000#64 ∧
    Float64.sqrt 0 0x7FF0000000000000#64 = 0x7FF0000000000000#64 ∧
    Float64.add 0 0xFFF0000000000000#64 0xFFF0000000000000#64 = 0xFFF0000000000000#64 ∧
    Float64.sub 0 0xFFF0000000000000#64 0x7FF0000000000000#64 = 0xFFF0000000000000#64 := by decide +kernel

/-! ### Witnesses: states and operands that meet the hypotheses of the statements, clause by clause -/

/-- An idle core with LEN = 2. -/
def idle : State := { State.reset with len := 2 }

/-- The same core with FFT.FWD just accepted. -/
def running : State := idle.writeReg 0 0x1

theorem witness_inv_idle : idle.Inv where
  memSorted := List.Pairwise.nil
  memInWindows := by simp [idle, State.reset]
  lanesWhole := fun _ _ _ _ => rfl
  busyWhenRunning := by simp [idle, State.reset, Status.reset]
  cmdWhenRunning := by simp [idle, State.reset]
  latched := by simp [idle, State.reset]
  errWhenError := by simp [idle, State.reset, Status.reset]
  rlenWhenDone := by simp [idle, State.reset]
  tables := by simp [idle, State.reset, Regs.reset]
  counters := by simp [idle, State.reset, Regs.reset, Regs.inRange]
  position := .inl rfl

theorem witness_inv_running : running.Inv where
  memSorted := List.Pairwise.nil
  memInWindows := by intro c hc; exact absurd hc (List.not_mem_nil)
  lanesWhole := fun _ _ _ _ => rfl
  busyWhenRunning := by decide
  cmdWhenRunning := by decide
  latched := by
    intro w h
    have e : w = 0x1 := (Option.some.inj (show some (0x1 : Word) = some w from h)).symm
    subst e; decide
  errWhenError := by decide
  rlenWhenDone := by decide
  tables := by simp [running, idle, State.reset, Regs.reset, State.writeReg, State.accept, State.busy, Status.reset]
  counters := by
    simp [running, idle, State.reset, Regs.reset, State.writeReg, State.accept, State.busy, Status.reset, Regs.inRange]
  position := .inr (.inl rfl)

theorem witness_AcceptanceWrites : idle.busy = false ∧ running.busy = true := by decide

theorem witness_IllegalWordsAreRefused : (decode 0x12).toOption = none ∧ idle.busy = false := by decide

/-- N = 0, 1, 3, 1025, 2048 and the accepted 2 and NMAX, each at its clause. -/
theorem witness_RefusedCommandsAndTheirKinds :
    (loaded 1 []).busy = false ∧ (loaded 1 []).len.toNat < 2 ∧ (loaded 1 []).len.toNat % 2 = 1 ∧
    lengthInvalid .fftFwd 3 = true ∧ lengthInvalid .fht 0 = true ∧ lengthInvalid .fftInv 2048 = false ∧
    Config.nmax < 2048 ∧ Config.nmax < 1025 ∧ lengthInvalid .fht 1024 = false ∧ 1024 ≤ Config.nmax ∧
    (decode 0x5).toOption = none := by decide +kernel

theorem witness_BusyCoreIgnoresCommands : running.busy = true := by decide

theorem witness_CompletionWrites : ({ running with seq := .complete } : State).seq = .complete := rfl

theorem witness_StatusWordFields : idle.Inv ∧ idle.busy = false ∧ writesCmd .turn = false ∧ isReset .turn = false ∧
    ∃ t, happen .turn idle = .next t := ⟨witness_inv_idle, rfl, rfl, rfl, _, rfl⟩

theorem witness_HostTransactionsFollowTheTable :
    idle.Inv ∧ idle.busy = false ∧ running.Inv ∧ running.busy = true ∧ 0 < Config.nmax ∧ 1023 < Config.nmax ∧
    Config.nmax ≤ 1024 := ⟨witness_inv_idle, rfl, witness_inv_running, rfl, by decide⟩

/-- The first and the last of the reserved offsets, and an access of each refused kind. -/
theorem witness_BusAccessShapeAndMap :
    let B := 16 * Config.nmax
    (0x28 % 8 = 0 ∧ 0x28 ≤ 0x28 ∧ 0x28 < B) ∧ ((B - 8) % 8 = 0 ∧ 0x28 ≤ B - 8 ∧ B - 8 < B) ∧
    ((3 * B) % 8 = 0 ∧ 3 * B ≤ 3 * B ∧ 3 * B < 4 * B) ∧ ((4 * B - 8) % 8 = 0 ∧ 3 * B ≤ 4 * B - 8 ∧ 4 * B - 8 < 4 * B) ∧
    1023 < Config.nmax ∧ idle.busy = false ∧ (4 : Nat) ≠ 8 ∧ (Config.base + 4) % 8 ≠ 0 ∧
    Config.base + 4 * B ≤ Config.base + 4 * B := by
  have h : (Config.base + 4) % 8 ≠ 0 := by
    rw [Config.base, show 64 * Config.nmax * Config.baseUnits = 8 * (8 * Config.nmax * Config.baseUnits) by ring]
    omega
  exact ⟨by decide, by decide, by decide, by decide, by decide, rfl, by decide, h, Nat.le_refl _⟩

theorem witness_StoredLaneIsLittleEndian : (0 < 8 ∧ 7 < 8) ∧
    Memory.readLane (Memory.writeLane [] 0 (v 1)) 0 = some (v 1) ∧ (0 + 8 ≤ 8) := by decide +kernel

theorem witness_CallerDataIsKept :
    let s := { idle with events := [.turn] }
    (∃ t, Host.Core.run core 1 s = .next t) ∧ (∀ ev ∈ s.events, isReset ev = false) ∧
    (∀ ev ∈ s.events, writesLen ev = false) ∧ 1023 < Config.nmax ∧
    (∀ ev ∈ s.events, writesSrc 1023 .im ev = false) :=
  ⟨⟨_, rfl⟩, by simp [isReset], by simp [writesLen], by decide, by simp [writesSrc]⟩

theorem witness_ResultsStayUntilTheNextCommand :
    idle.Inv ∧ idle.busy = false ∧ (∃ t, Host.Core.run core 1 idle = .next t) ∧
    (∀ ev ∈ idle.events, isReset ev = false ∧ writesCmd ev = false) ∧ 1023 < Config.nmax :=
  ⟨witness_inv_idle, rfl, ⟨_, rfl⟩, by simp [idle, State.reset], by decide⟩

theorem witness_HostWritesReachTheCore :
    let x : List (F64 × F64) := [(v 1, v 2)]
    let s := { idle with events := [.host (.writeBuf 0 .re (v 1)), .host (.writeBuf 0 .im (v 2)), .host (.writeReg 1 1)] }
    s.busy = false ∧ x.length ≤ Config.nmax ∧
    s.events = ((writePairs x ++ [HostStmt.wlen (BitVec.ofNat 32 x.length)]).flatMap HostStmt.events) ++ [] ∧
    x[0]? = some (v 1, v 2) := ⟨rfl, by decide, rfl, rfl⟩

theorem witness_EveryStepKeepsInvariant : idle.Inv ∧ running.Inv := ⟨witness_inv_idle, witness_inv_running⟩

theorem witness_LoopRegistersFollowThePseudocode :
    idle.Inv ∧ idle.registersFollow ∧ (∃ t, Machine.step idle = .next t) ∧ running.Inv ∧ running.registersFollow ∧ 1 ≤ 1 :=
  ⟨witness_inv_idle, trivial, ⟨_, rfl⟩, witness_inv_running, trivial, le_refl _⟩

theorem witness_StepRunsTheDecodedCommand :
    ({ idle with events := [.command 0x11] } : State).events = .command 0x11 :: [] ∧ decode 0x11 = .ok .fftInv ∧
    (decode 0x12).toOption = none ∧ decodeTableWord 32 0x3 = some .mag := by decide

theorem witness_StepTakesOneEvent :
    idle.events = [] ∧ ({ idle with events := [.turn] } : State).events = .turn :: [] := ⟨rfl, rfl⟩

theorem witness_MicroStepsAgreeWithCommands : idle.busy = false := rfl

/-- For every bound, a list of events with that many turns and no reset. -/
theorem witness_BusyCoreFinishes : running.Inv ∧ running.busy = true ∧
    ∀ bound : Nat, ∃ evs : List Event, (∀ ev ∈ evs, isReset ev = false) ∧ bound ≤ evs.count .turn :=
  ⟨witness_inv_running, rfl, fun n => ⟨List.replicate n .turn, by simp [isReset], by simp⟩⟩

/-- Two different cores with the same input. -/
theorem witness_CommandsDoNotDependOnTheRest :
    let s' : State := { idle with draw := 5, dstSeed := 3 }
    idle.Inv ∧ s'.Inv ∧ idle.busy = false ∧ s'.busy = false ∧ idle.len = s'.len ∧
    (∀ k, k < idle.len.toNat → k < Config.nmax →
      idle.src k .re = s'.src k .re ∧ (decode 0x1 ≠ .ok .fht → idle.src k .im = s'.src k .im)) :=
  ⟨witness_inv_idle, ⟨List.Pairwise.nil, witness_inv_idle.memInWindows, fun _ _ _ _ => rfl,
    witness_inv_idle.busyWhenRunning, witness_inv_idle.cmdWhenRunning, witness_inv_idle.latched,
    witness_inv_idle.errWhenError, witness_inv_idle.rlenWhenDone, witness_inv_idle.tables, witness_inv_idle.counters,
    .inl rfl⟩, rfl, rfl, rfl, fun _ _ _ => ⟨rfl, fun _ => rfl⟩⟩

/-- The shortest and the longest sequence. -/
theorem witness_CommandsComputeOnSequences :
    idle.busy = false ∧ (∃ m, 1 ≤ m ∧ m ≤ Config.log2Nmax ∧ idle.len.toNat = 2 ^ m) ∧
    (∃ m, 1 ≤ m ∧ m ≤ Config.log2Nmax ∧ (loaded 1024 []).len.toNat = 2 ^ m) ∧ (loaded 0 []).len.toNat ≤ Config.nmax :=
  ⟨rfl, ⟨1, by decide⟩, ⟨10, by decide +kernel⟩, by decide +kernel⟩

theorem witness_FftCompletes : idle.busy = false ∧ idle.len.toNat = 2 ^ 1 ∧ 1 ≤ 1 ∧ 10 ≤ Config.log2Nmax ∧
    (loaded 1024 []).busy = false ∧ (loaded 1024 []).len.toNat = 2 ^ 10 := by decide +kernel

theorem witness_FhtCompletes : idle.busy = false ∧ idle.len.toNat = 2 ^ 1 ∧ 1 ≤ 1 ∧ 10 ≤ Config.log2Nmax ∧
    (loaded 1024 []).busy = false ∧ (loaded 1024 []).len.toNat = 2 ^ 10 := by decide +kernel

theorem witness_MagCompletes : (loaded 0 []).busy = false ∧ (loaded 0 []).len.toNat ≤ Config.nmax ∧
    (loaded 1024 []).len.toNat ≤ Config.nmax ∧ Config.nmax < (loaded 1025 []).len.toNat := by decide +kernel

theorem witness_PhaseCompletes : (loaded 3 []).busy = false ∧ (loaded 3 []).len.toNat ≤ Config.nmax ∧
    (loaded 1024 []).len.toNat ≤ Config.nmax ∧ Config.nmax < (loaded 4294967295 []).len.toNat := by decide +kernel

theorem witness_FftOnTwoPoints :
    let s := loaded 2 [(v 1, v 2), (v 3, v 4)]
    s.busy = false ∧ s.len = 2 ∧
    [(s.input 0).1, (s.input 0).2, (s.input 1).1, (s.input 1).2].all Float64.isFinite = true := by decide +kernel

theorem witness_FhtOnSmallLengths : idle.busy = false ∧ idle.len = 2 ∧ (loaded 4 []).busy = false ∧
    (loaded 4 []).len = 4 := by decide +kernel

theorem witness_ConstantFourPointsTransformExactly :
    ∀ a : F64, Float64.isFinite ((fun _ => 0#64) a) = true ∧ |Float64.value ((fun _ => 0#64) a)| ≤ 1 := by
  intro a
  refine ⟨show Float64.isFinite 0 = true by decide, ?_⟩
  simp [Float64.value, Float64.signedSignificand, Float64.significand, Float64.mag]

theorem witness_BitReversalMapProperties : (1 < 2 ^ 1 ∧ 0 < 1) ∧ (1 ≤ 3 ∧ 7 < 2 ^ 3 ∧ 3 < 2 ^ (3 - 1)) ∧
    7 < 2 ^ (2 + 1) := by decide

theorem witness_BitReversalOutcome : (1 ≤ 1 ∧ 1 ≤ Config.log2Nmax) ∧ (1 ≤ 10 ∧ 10 ≤ Config.log2Nmax) ∧
    1023 < 2 ^ 10 := by decide

theorem witness_ButterflyWritesTwoElements : (0 < 1 ∧ 1 < Config.nmax) ∧ (0 < 1023 ∧ 1023 < Config.nmax) := by decide

theorem witness_RotationAndCombination : 5 < 7 ∧ 7 < Config.nmax ∧ Regs.reset.htC[511]? = some 0 ∧
    Regs.reset.htS[511]? = some 0 := by decide +kernel

theorem witness_TwiddleFactors : 1 ≤ 1 ∧ 1 ≤ 512 := by decide

theorem witness_StageSetup : 0 < Config.log2Nmax ∧ 9 < Config.log2Nmax := by decide

theorem witness_StageWritesEveryLaneOnce : 0 < 1 ∧ 9 < 10 := by decide

theorem witness_ScalingDividesEveryLane : (1 ≤ 1 ∧ 1 ≤ Config.log2Nmax) ∧ (1 ≤ 10 ∧ 10 ≤ Config.log2Nmax) := by decide

theorem witness_HartleyTableEntries : 1 ≤ 10 ∧ 2 ^ 10 / 2 ≤ Regs.reset.htC.length ∧ 2 ^ 10 / 2 ≤ Regs.reset.htS.length ∧
    10 ≤ Config.log2Nmax := by decide +kernel

theorem value_zero : Float64.value 0 = 0 := by
  simp [Float64.value, Float64.signedSignificand, Float64.significand, Float64.mag]

theorem value_one : Float64.value (Float64.fromNat 1) = 1 := by
  have h : Float64.signedSignificand (Float64.fromNat 1) = 2 ^ 52 := by decide +kernel
  have e : Float64.scale (Float64.fromNat 1) = 1022 := by decide +kernel
  rw [Float64.value, h, e]
  norm_num

theorem witness_AddSubMulAreRounded : Float64.isFinite (0 : F64) = true ∧ Float64.value 0 + Float64.value 0 = 0 :=
  ⟨by decide, by rw [value_zero, add_zero]⟩

theorem witness_DivAndSqrtAreRounded : Float64.isFinite (v (-1)) = true ∧ Float64.isZero (v (-1)) = false ∧
    Float64.isFinite (v 2) = true ∧ Float64.sign (v 2) = false ∧ Float64.isZero (0 : F64) = true := by decide +kernel

theorem witness_SpecialValues :
    let inf : F64 := 0x7FF0000000000000#64
    let ninf : F64 := 0xFFF0000000000000#64
    Float64.isInf inf = true ∧ Float64.isInf ninf = true ∧ Float64.sign inf = false ∧ Float64.sign inf ≠ Float64.sign ninf ∧
    Float64.isZero (0 : F64) = true ∧ Float64.isFinite (0 : F64) = true ∧
    Float64.isFinite (v 1) = true ∧ Float64.isNaN (v 1) = false ∧
    Float64.isZero (v 1) = false ∧ Float64.isNaN (0x7FF8000000000123#64) = true := by decide +kernel

theorem witness_ExactnessFacts : Float64.isFinite (Float64.fromNat 1) = true ∧ 1023 ≤ 1023 ∧
    (2 : ℝ) ^ (-1022 : ℤ) ≤ |Float64.value (Float64.fromNat 1) / 2 ^ 0| ∧ |Float64.value (Float64.fromNat 1)| < 2 ^ 1023 ∧
    (2 : ℝ) ^ (-1021 : ℤ) ≤ |Float64.value (Float64.fromNat 1)| ∧ Float64.isNaN (Float64.fromNat 1) = false ∧
    (2 ^ 53 - 1 : Int).natAbs < 2 ^ 53 ∧ ((2 ^ 53 - 1 : Int) + 0).natAbs < 2 ^ 53 ∧
    ((2 ^ 53 - 1 : Int) * 1).natAbs < 2 ^ 53 := by
  have small : ∀ n : ℤ, n ≤ 0 → (2 : ℝ) ^ n ≤ 1 := fun n h => zpow_le_one_of_nonpos₀ (by norm_num) h
  refine ⟨by decide +kernel, le_refl _, ?_, ?_, ?_, by decide +kernel, by decide, by decide, by decide⟩
  · rw [value_one]; simpa using small (-1022) (by norm_num)
  · rw [value_one, abs_one]; exact one_lt_pow₀ (by norm_num) (by norm_num)
  · rw [value_one, abs_one]; exact small _ (by norm_num)

theorem witness_ConstantsAreNearest : 0 ≤ 2 ^ 53 ∧ 2 ^ 53 ≤ 2 ^ 53 := by decide

theorem witness_SineAndCosineProperties : Float64.isNaN (0x7FF8000000000123#64) = true := by decide +kernel

/-- One pair for each row of the table of special cases. -/
theorem witness_PhaseSpecialCases :
    let inf : F64 := 0x7FF0000000000000#64
    let ninf : F64 := 0xFFF0000000000000#64
    let nzero : F64 := 0x8000000000000000#64
    Float64.isNaN (0x7FF8000000000123#64) = true ∧ Float64.isNaN inf = false ∧
    (Float64.isZero nzero = true ∧ Float64.sign (v 1) = false) ∧ (Float64.isZero (0 : F64) = true ∧ Float64.sign ninf = true) ∧
    (Float64.isZero (v 1) = false ∧ Float64.isZero nzero = true) ∧ (Float64.isFinite (v 1) = true ∧ Float64.isInf ninf = true) ∧
    (Float64.isInf inf = true ∧ Float64.isFinite (v 1) = true) ∧ (Float64.isInf ninf = true ∧ Float64.isInf inf = true) := by
  decide +kernel

/-- 1e200, whose square overflows, and 1e-200, whose square underflows. -/
theorem witness_MagnitudeProperties :
    Float64.isNaN (magE coreNum 0 0x6974E718D7D7625A#64 (v 1)) = false ∧
    Float64.isInf (Float64.mul 0 0x6974E718D7D7625A#64 0x6974E718D7D7625A#64) = true ∧
    Float64.isZero (Float64.mul 0 0x16687E92154EF7AC#64 0x16687E92154EF7AC#64) = true := by decide +kernel

/-- N = 1, 3, 2 for the Fourier, 5, 0, 6 for the Hartley transform. -/
theorem witness_ReferenceTransforms : 1 < 2 ∧ (¬∃ m, 3 = 2 ^ m) ∧ (2 ≤ 2 ∧ ∃ m, 2 = 2 ^ m) ∧ 5 % 2 = 1 ∧ 0 % 2 = 0 ∧
    6 % 2 = 0 :=
  ⟨by decide, fun h => absurd ((ispow2_iff 3).2 h) (by decide), ⟨by decide, 1, rfl⟩, by decide, by decide, by decide⟩

theorem witness_ExactFftIsDft : 1 ≤ 1 ∧ 1 < 2 ^ 1 := by decide

theorem witness_ExactInverseUndoesForward : 1 ≤ 10 ∧ 1023 < 2 ^ 10 := by decide

theorem witness_ExactHartleyIsDht :
    ∃ r : Regs ℝ, 1 ≤ 1 ∧ 2 ^ 1 / 2 ≤ r.htC.length ∧ 2 ^ 1 / 2 ≤ r.htS.length ∧ 1 < 2 ^ 1 :=
  ⟨⟨0, 0, 0, 0, 0, 0, 0, 0, 0, [0], [0], 0, 0, 0, 0, 0, 0, 0, 0⟩, by simp⟩

theorem witness_ExactHartleyIsItsOwnInverse :
    ∃ r r' : Regs ℝ, 1 ≤ 2 ∧ 2 ^ 2 / 2 ≤ r.htC.length ∧ 2 ^ 2 / 2 ≤ r.htS.length ∧
      2 ^ 2 / 2 ≤ r'.htC.length ∧ 2 ^ 2 / 2 ≤ r'.htS.length ∧ 3 < 2 ^ 2 :=
  ⟨⟨0, 0, 0, 0, 0, 0, 0, 0, 0, [0, 0], [0, 0], 0, 0, 0, 0, 0, 0, 0, 0⟩,
    ⟨0, 0, 0, 0, 0, 0, 0, 0, 0, [0, 0], [0, 0], 0, 0, 0, 0, 0, 0, 0, 0⟩, by simp⟩

end Sys2Proof.Tests
end

section
/-! PROOFS. The words of F by sign and magnitude, the magnitudes as a strictly rising scale of integers in units of 2^-1074,
and rounding to a multiple of a power of two (00_scope R7, R11). -/

namespace Sys2Proof.Machine.Float64

/-! ### Words by sign and magnitude -/

theorem mag_lt (a : F64) : mag a < 2 ^ 63 := Nat.mod_lt _ (by decide)

theorem infMag_lt : infMag < 2 ^ 63 := by decide

theorem toNat_ofParts (s : Bool) {m : Nat} (h : m < 2 ^ 63) :
    (ofParts s m).toNat = m + if s then 2 ^ 63 else 0 := by
  rw [ofParts, BitVec.toNat_ofNat]
  split <;> omega

theorem mag_ofParts (s : Bool) {m : Nat} (h : m < 2 ^ 63) : mag (ofParts s m) = m := by
  rw [mag, toNat_ofParts s h]
  split <;> omega

theorem sign_ofParts (s : Bool) {m : Nat} (h : m < 2 ^ 63) : sign (ofParts s m) = s := by
  rw [sign, toNat_ofParts s h]
  cases s
  · exact decide_eq_false (by simpa using h)
  · exact decide_eq_true (by simp)

@[simp] theorem ofParts_sign_mag (a : F64) : ofParts (sign a) (mag a) = a := by
  apply BitVec.eq_of_toNat_eq
  have := a.isLt
  rw [toNat_ofParts _ (mag_lt a), sign, mag]
  simp only [decide_eq_true_eq]
  split <;> omega

theorem eq_of_sign_mag {a b : F64} (hs : sign a = sign b) (hm : mag a = mag b) : a = b := by
  rw [← ofParts_sign_mag a, hs, hm, ofParts_sign_mag]

@[simp] theorem mag_neg (a : F64) : mag (neg a) = mag a := mag_ofParts _ (mag_lt a)

@[simp] theorem sign_neg (a : F64) : sign (neg a) = !sign a := sign_ofParts _ (mag_lt a)

theorem mag_of_isZero {a : F64} (h : isZero a = true) : mag a = 0 := of_decide_eq_true h

theorem mag_of_isInf {a : F64} (h : isInf a = true) : mag a = infMag := of_decide_eq_true h

theorem mag_of_isFinite {a : F64} (h : isFinite a = true) : mag a < infMag := of_decide_eq_true h

theorem not_isNaN_of_isFinite {a : F64} (h : isFinite a = true) : isNaN a = false :=
  decide_eq_false (mag_of_isFinite h).le.not_gt

theorem not_isInf_of_isFinite {a : F64} (h : isFinite a = true) : isInf a = false :=
  decide_eq_false (mag_of_isFinite h).ne

theorem isInf_or_isFinite {a : F64} (h : isNaN a = false) : isInf a = true ∨ isFinite a = true := by
  have := of_decide_eq_false h
  simp only [isInf, isFinite, decide_eq_true_eq]
  omega

/-! ### Magnitudes in units of 2^-1074 -/

/-- The significand of a magnitude. -/
def magSig (M : Nat) : Nat := if M / 2 ^ 52 = 0 then M else M % 2 ^ 52 + 2 ^ 52

/-- The value of a magnitude, in units of 2^-1074. -/
def magVal (M : Nat) : Nat := magSig M * 2 ^ (M / 2 ^ 52 - 1)

theorem magSig_mag (a : F64) : magSig (mag a) = significand a := rfl

theorem magVal_mag (a : F64) : magVal (mag a) = significand a * 2 ^ scale a := rfl

theorem magSig_lt (M : Nat) : magSig M < 2 ^ 53 := by
  unfold magSig
  split <;> omega

theorem significand_lt (a : F64) : significand a < 2 ^ 53 := magSig_lt _

/-- Every magnitude is a point of a grid: subnormal, or with the hidden bit. -/
theorem magnitude_eq (M : Nat) :
    M = (M / 2 ^ 52 - 1) * 2 ^ 52 + magSig M ∧ (M / 2 ^ 52 - 1 = 0 ∨ 2 ^ 52 ≤ magSig M) := by
  unfold magSig
  split <;> omega

/-- A point of the grid of step 2^q. The end r = 2^53 is the first point of the next grid. -/
theorem magVal_grid {q r : Nat} (hr : r ≤ 2 ^ 53) (h : q = 0 ∨ 2 ^ 52 ≤ r) :
    magVal (q * 2 ^ 52 + r) = r * 2 ^ q := by
  rcases hr.lt_or_eq with hr | rfl
  · have hq : (q * 2 ^ 52 + r) / 2 ^ 52 - 1 = q := by omega
    have hs : magSig (q * 2 ^ 52 + r) = r := by
      unfold magSig
      split <;> omega
    rw [magVal, hq, hs]
  · have hq : (q * 2 ^ 52 + 2 ^ 53) / 2 ^ 52 - 1 = q + 1 := by omega
    have hs : magSig (q * 2 ^ 52 + 2 ^ 53) = 2 ^ 52 := by unfold magSig; split <;> omega
    rw [magVal, hq, hs, pow_succ, pow_succ 2 52]; ring

theorem magSig_grid_even {q r : Nat} (he : r % 2 = 0) : magSig (q * 2 ^ 52 + r) % 2 = 0 := by
  unfold magSig
  split <;> omega

theorem magVal_strictMono : StrictMono magVal := by
  refine strictMono_nat_of_lt_succ fun M => ?_
  obtain ⟨hM, hg⟩ := magnitude_eq M
  have hlt := magSig_lt M
  calc magVal M = magSig M * 2 ^ (M / 2 ^ 52 - 1) := rfl
    _ < (magSig M + 1) * 2 ^ (M / 2 ^ 52 - 1) := by gcongr; omega
    _ = magVal ((M / 2 ^ 52 - 1) * 2 ^ 52 + (magSig M + 1)) := (magVal_grid hlt (by omega)).symm
    _ = magVal (M + 1) := by rw [← Nat.add_assoc, ← hM]

theorem magVal_zero : magVal 0 = 0 := rfl

theorem magVal_infMag : magVal infMag = 2 ^ 2098 := by
  rw [show infMag = 2045 * 2 ^ 52 + 2 ^ 53 by decide, magVal_grid le_rfl (by decide), ← pow_add]

theorem magVal_lt_iff {M : Nat} : magVal M < 2 ^ 2098 ↔ M < infMag := by
  rw [← magVal_infMag, magVal_strictMono.lt_iff_lt]

theorem significand_eq_zero_iff (a : F64) : significand a = 0 ↔ mag a = 0 := by
  rw [← magSig_mag]
  unfold magSig
  split <;> omega

/-! ### Rounding in integers -/

theorem roundShift_zero (m : Nat) : roundShift m 0 = m := by
  simp [roundShift, Nat.mod_one]

theorem roundShift_mul_pow (m k j : Nat) : roundShift (m * 2 ^ j) (k + j) = roundShift m k := by
  have hj : 0 < 2 ^ j := by positivity
  have hh : m * 2 ^ j / 2 ^ (k + j) = m / 2 ^ k := by
    rw [pow_add, Nat.mul_div_mul_right _ _ hj]
  have hr : m * 2 ^ j % 2 ^ (k + j) = m % 2 ^ k * 2 ^ j := by rw [pow_add, Nat.mul_mod_mul_right]
  have hlt : 2 ^ (k + j) < 2 * (m % 2 ^ k * 2 ^ j) ↔ 2 ^ k < 2 * (m % 2 ^ k) := by
    rw [pow_add, ← mul_assoc, Nat.mul_lt_mul_right hj]
  have heq : 2 ^ (k + j) = 2 * (m % 2 ^ k * 2 ^ j) ↔ 2 ^ k = 2 * (m % 2 ^ k) := by
    rw [pow_add, ← mul_assoc, Nat.mul_left_inj hj.ne']
  simp only [roundShift, hh, hr, hlt, heq]

/-- The rounded multiple is within half a step, and even where two multiples are equally near. -/
theorem roundShift_near (m k : Nat) :
    2 * m ≤ (2 * roundShift m k + 1) * 2 ^ k ∧ 2 * roundShift m k * 2 ^ k ≤ 2 * m + 2 ^ k ∧
    (2 * m = (2 * roundShift m k + 1) * 2 ^ k ∨ 2 * roundShift m k * 2 ^ k = 2 * m + 2 ^ k → roundShift m k % 2 = 0) := by
  have hm := Nat.div_add_mod m (2 ^ k)
  have hr := Nat.mod_lt m (show 0 < 2 ^ k by positivity)
  simp only [roundShift]
  generalize m / 2 ^ k = h at *
  generalize m % 2 ^ k = r at *
  generalize 2 ^ k = P at *
  have hPh : P * h = h * P := mul_comm _ _
  split
  next hc =>
    have e1 : (2 * (h + 1) + 1) * P = 2 * (h * P) + 3 * P := by ring
    have e2 : 2 * (h + 1) * P = 2 * (h * P) + 2 * P := by ring
    rw [e1, e2]
    omega
  next hc =>
    have e1 : (2 * h + 1) * P = 2 * (h * P) + P := by ring
    have e2 : 2 * h * P = 2 * (h * P) := by ring
    rw [e1, e2]
    omega

/-- The rounding of m · 2^-k as one shift: the step 2^q of the words is never finer than such a unit. -/
theorem roundMag_neg (m k : Nat) :
    roundMag m (-(k : Int)) =
      min infMag ((Nat.log2 m - (k + 52)) * 2 ^ 52 + roundShift m (Nat.log2 m - (k + 52) + k)) := by
  unfold roundMag
  split
  next h => subst h; simp [roundShift]
  next h =>
    have hq : ((Nat.log2 m : Int) + -(k : Int) - 52).toNat = Nat.log2 m - (k + 52) := by omega
    simp only [hq]
    generalize Nat.log2 m - (k + 52) = q
    split
    next hs =>
      obtain ⟨rfl, rfl⟩ : q = 0 ∧ k = 0 := by omega
      simp [roundShift_zero]
    next hs => rw [show ((q : Int) - -(k : Int)).toNat = q + k by omega]

end Sys2Proof.Machine.Float64
end

section
/-! PROOFS. The rounding of the model depends on the real number alone and leaves what F can hold; the real value of a
word (00_scope R7, R11). -/

namespace Sys2Proof.Machine.Float64

theorem log2_mul_pow {m : Nat} (k : Nat) (hm : m ≠ 0) : Nat.log2 (m * 2 ^ k) = Nat.log2 m + k := by
  rw [Nat.log2_eq_iff (by positivity)]
  have hlo := Nat.log2_self_le hm
  have hhi := Nat.lt_log2_self (n := m)
  constructor
  · rw [pow_add]
    gcongr
  · rw [show Nat.log2 m + k + 1 = Nat.log2 m + 1 + k by omega, pow_add]
    gcongr

/-- A power of two may stand in the significand or in the exponent. -/
theorem roundMag_mul_pow (m k : Nat) (e : Int) : roundMag (m * 2 ^ k) e = roundMag m (e + k) := by
  unfold roundMag
  by_cases hm : m = 0
  · simp [hm]
  have hmk : m * 2 ^ k ≠ 0 := by positivity
  have hlog : ((Nat.log2 (m * 2 ^ k) : Nat) : Int) + e - 52 = (Nat.log2 m : Int) + (e + k) - 52 := by
    rw [log2_mul_pow k hm]; push_cast; ring
  simp only [hm, hmk, if_false, hlog]
  generalize ((Nat.log2 m : Int) + (e + k) - 52).toNat = q
  congr 2
  obtain ⟨t, ht⟩ : ∃ t : Int, (q : Int) - e = t := ⟨_, rfl⟩
  rw [show (q : Int) - (e + k) = t - k by omega, ht]
  rcases le_or_gt t 0 with h | h
  · rw [if_pos h, if_pos (by omega), mul_assoc, ← pow_add, show (-(t - k)).toNat = k + (-t).toNat by omega]
  obtain ⟨n, rfl⟩ : ∃ n : Nat, t = n := ⟨t.toNat, by omega⟩
  rw [if_neg (by omega), Int.toNat_natCast]
  rcases le_or_gt n k with hk | hk
  · obtain ⟨j, rfl⟩ := Nat.exists_eq_add_of_le hk
    rw [if_pos (by omega), show m * 2 ^ (n + j) = m * 2 ^ j * 2 ^ n by ring]
    have := roundShift_mul_pow (m * 2 ^ j) 0 n
    rw [Nat.zero_add, roundShift_zero] at this
    rw [this]
    congr 2
    omega
  · obtain ⟨j, rfl⟩ := Nat.exists_eq_add_of_le hk.le
    rw [if_neg (by omega), Nat.add_comm k j, roundShift_mul_pow]
    congr 1
    omega

/-- Rounding depends on the real number alone. -/
theorem roundMag_congr {m m' : Nat} {e e' : Int} (h : (m : ℝ) * 2 ^ e = m' * 2 ^ e') :
    roundMag m e = roundMag m' e' := by
  wlog hle : e ≤ e' generalizing m m' e e'
  · exact (this h.symm (by omega)).symm
  obtain ⟨k, rfl⟩ : ∃ k : Nat, e' = e + k := ⟨(e' - e).toNat, by omega⟩
  have hm : m = m' * 2 ^ k := by
    rw [zpow_add₀ two_ne_zero, zpow_natCast, ← mul_assoc, mul_right_comm] at h
    exact_mod_cast mul_right_cancel₀ (by positivity) h
  rw [hm, roundMag_mul_pow]

theorem roundMag_le (m : Nat) (e : Int) : roundMag m e ≤ infMag := by
  unfold roundMag
  split
  · exact Nat.zero_le _
  · exact min_le_left _ _

theorem roundMag_lt (m : Nat) (e : Int) : roundMag m e < 2 ^ 63 := (roundMag_le m e).trans_lt infMag_lt

/-- What fits 53 bits above the least unit is not changed by rounding. -/
theorem magVal_roundMag {m e : Nat} (hm : m < 2 ^ 53) (h : m * 2 ^ e < 2 ^ 2098) :
    magVal (roundMag m e) = m * 2 ^ e := by
  unfold roundMag
  split
  · next h0 => simp [h0, magVal_zero]
  rename_i h0
  have hlog : Nat.log2 m < 53 := (Nat.log2_lt h0).2 hm
  obtain ⟨q, hq⟩ : ∃ q, ((Nat.log2 m : Int) + e - 52).toNat = q := ⟨_, rfl⟩
  obtain ⟨j, rfl⟩ : ∃ j, e = q + j := ⟨e - q, by omega⟩
  have hr : m * 2 ^ j < 2 ^ 53 := by
    calc m * 2 ^ j < 2 ^ (Nat.log2 m + 1) * 2 ^ j := by gcongr; exact Nat.lt_log2_self
      _ = 2 ^ (Nat.log2 m + 1 + j) := (pow_add _ _ _).symm
      _ ≤ 2 ^ 53 := Nat.pow_le_pow_right (by decide) (by omega)
  have hg : q = 0 ∨ 2 ^ 52 ≤ m * 2 ^ j := by
    rcases Nat.eq_zero_or_pos q with hq0 | hq0
    · exact .inl hq0
    · refine .inr ?_
      calc 2 ^ 52 = 2 ^ Nat.log2 m * 2 ^ j := by rw [← pow_add]; congr 1; omega
        _ ≤ m * 2 ^ j := by gcongr; exact Nat.log2_self_le h0
  have hval := magVal_grid hr.le hg
  rw [mul_assoc, ← pow_add, Nat.add_comm j q] at hval
  simp only [hq, if_pos (show (q : Int) - ((q + j : Nat) : Int) ≤ 0 by omega),
    show (-((q : Int) - ((q + j : Nat) : Int))).toNat = j by omega]
  rw [min_eq_right (magVal_lt_iff.1 (hval ▸ h)).le, hval]

/-- A finite magnitude is the rounding of its own value. -/
theorem roundMag_significand {a : F64} (h : isFinite a = true) : roundMag (significand a) (scale a) = mag a :=
  magVal_strictMono.injective
    (magVal_roundMag (significand_lt a) (magVal_lt_iff.2 (mag_of_isFinite h)))

/-! ### The real value of a word -/

/-- The factor of a sign. -/
noncomputable def sgn (s : Bool) : ℝ := if s then -1 else 1

@[simp] theorem sgn_false : sgn false = 1 := rfl
@[simp] theorem sgn_true : sgn true = -1 := rfl

theorem sgn_not (s : Bool) : sgn (!s) = -sgn s := by cases s <;> simp

theorem sgn_bne (s t : Bool) : sgn (s != t) = sgn s * sgn t := by cases s <;> cases t <;> simp

theorem abs_sgn (s : Bool) : |sgn s| = 1 := by cases s <;> simp

theorem signedSignificand_eq (a : F64) : (signedSignificand a : ℝ) = sgn (sign a) * significand a := by
  unfold signedSignificand
  cases sign a <;> simp

theorem value_eq_significand (a : F64) :
    value a = sgn (sign a) * significand a * 2 ^ ((scale a : ℤ) - 1074) := by
  rw [value, signedSignificand_eq]

theorem value_eq (a : F64) : value a = sgn (sign a) * magVal (mag a) * 2 ^ (-1074 : ℤ) := by
  rw [value_eq_significand, magVal_mag, sub_eq_add_neg, zpow_add₀ two_ne_zero, zpow_natCast]
  push_cast
  ring

@[simp] theorem value_neg (a : F64) : value (neg a) = -value a := by
  rw [value_eq, value_eq, mag_neg, sign_neg, sgn_not]
  ring

theorem abs_value (a : F64) : |value a| = magVal (mag a) * 2 ^ (-1074 : ℤ) := by
  rw [value_eq, mul_assoc, abs_mul, abs_sgn, one_mul]
  exact abs_of_nonneg (by positivity)

theorem unit_mul (n : Nat) : (2 : ℝ) ^ (n + 1074) * 2 ^ (-1074 : ℤ) = 2 ^ n := by
  rw [pow_add, mul_assoc, zpow_neg, zpow_ofNat, mul_inv_cancel₀ (by positivity), mul_one]

theorem overflowBound_eq : overflowBound = (2 ^ 2098 - 2 ^ 2044) * 2 ^ (-1074 : ℤ) := by
  rw [overflowBound, sub_mul, unit_mul 1024, unit_mul 970]

@[simp] theorem sign_round (s : Bool) (m : Nat) (e : Int) : sign (round s m e) = s := sign_ofParts s (roundMag_lt m e)

@[simp] theorem mag_round (s : Bool) (m : Nat) (e : Int) : mag (round s m e) = roundMag m e :=
  mag_ofParts s (roundMag_lt m e)

theorem round_congr (s : Bool) {m m' : Nat} {e e' : Int} (h : (m : ℝ) * 2 ^ e = m' * 2 ^ e') :
    round s m e = round s m' e' := by
  rw [round, roundMag_congr h, round]

theorem round_significand {a : F64} (h : isFinite a = true) : round (sign a) (significand a) (scale a) = a := by
  rw [round, roundMag_significand h, ofParts_sign_mag]

/-- A number of 53 bits above the least unit and below the overflow is rounded to itself. -/
theorem round_exact (s : Bool) {m e : Nat} (hm : m < 2 ^ 53) (h : m * 2 ^ e < 2 ^ 2098) :
    isFinite (round s m e) = true ∧ value (round s m e) = sgn s * m * 2 ^ ((e : ℤ) - 1074) := by
  have hv := magVal_roundMag hm h
  refine ⟨decide_eq_true ?_, ?_⟩
  · rw [mag_round]
    exact magVal_lt_iff.1 (hv ▸ h)
  · rw [value_eq, mag_round, sign_round, hv, sub_eq_add_neg, zpow_add₀ two_ne_zero, zpow_natCast]
    push_cast
    ring

/-! ### Rounding to nearest, ties to even -/

/-- r is the multiple of the step 2^q nearest to x · 2^q, the even one of two, and q the step for that number. -/
structure RoundsTo (q : Nat) (x : ℝ) (r : Nat) : Prop where
  nonneg : 0 ≤ x
  low : q = 0 ∨ 2 ^ 52 ≤ x
  high : x < 2 ^ 53
  near : |(r : ℝ) - x| ≤ 1 / 2
  even : |(r : ℝ) - x| = 1 / 2 → r % 2 = 0

namespace RoundsTo

variable {q r : Nat} {x : ℝ}

theorem le (h : RoundsTo q x r) : r ≤ 2 ^ 53 := by
  have h1 := (abs_le.1 h.near).2
  have h2 := h.high
  have : (r : ℝ) < ((2 ^ 53 + 1 : Nat) : ℝ) := by push_cast; linarith
  exact Nat.lt_succ_iff.1 (Nat.cast_lt.1 this)

theorem grid (h : RoundsTo q x r) : q = 0 ∨ 2 ^ 52 ≤ r := by
  refine h.low.imp_right fun hl => ?_
  have h1 := (abs_le.1 h.near).1
  have : ((2 ^ 52 : Nat) : ℝ) < ((r + 1 : Nat) : ℝ) := by push_cast; linarith
  exact Nat.lt_succ_iff.1 (Nat.cast_lt.1 this)

theorem magVal_eq (h : RoundsTo q x r) : (magVal (q * 2 ^ 52 + r) : ℝ) = r * 2 ^ q := by
  exact_mod_cast magVal_grid h.le h.grid

/-- No multiple of the step is nearer, and only an even one shares its distance with another. -/
theorem nearest_multiple (h : RoundsTo q x r) (k : Nat) :
    |(r : ℝ) - x| ≤ |(k : ℝ) - x| ∧ (|(r : ℝ) - x| = |(k : ℝ) - x| → k ≠ r → r % 2 = 0) := by
  by_cases hk : k = r
  · exact ⟨by rw [hk], fun _ hne => absurd hk hne⟩
  have hdist : (1 : ℝ) ≤ |(r : ℝ) - k| := by
    have : (1 : ℤ) ≤ |(r : ℤ) - k| := Int.one_le_abs (by omega)
    exact_mod_cast this
  have htri : |(r : ℝ) - k| ≤ |(r : ℝ) - x| + |(k : ℝ) - x| := by
    rw [abs_sub_comm (k : ℝ) x]
    exact abs_sub_le _ _ _
  have hnear := h.near
  exact ⟨by linarith, fun he _ => h.even (by linarith)⟩


end RoundsTo

end Sys2Proof.Machine.Float64
end

section
/-! PROOFS. `Float64.round` is the rounding to nearest, ties to even, of `Float64.IsRounding` (00_scope R7): the nearest
multiple of the step is nearest among all words. -/

namespace Sys2Proof.Machine.Float64

theorem abs_sgn_mul_sub (s : Bool) (A B : ℝ) :
    |sgn s * A * 2 ^ (-1074 : ℤ) - sgn s * B * 2 ^ (-1074 : ℤ)| = |A - B| * 2 ^ (-1074 : ℤ) := by
  rw [← sub_mul, ← mul_sub, abs_mul, abs_mul, abs_sgn, one_mul,
    abs_of_pos (show (0 : ℝ) < 2 ^ (-1074 : ℤ) by positivity)]

theorem abs_sgn_mul_sub_of_ne {s t : Bool} (h : t ≠ s) {A B : ℝ} (hA : 0 ≤ A) (hB : 0 ≤ B) :
    |sgn t * A * 2 ^ (-1074 : ℤ) - sgn s * B * 2 ^ (-1074 : ℤ)| = (A + B) * 2 ^ (-1074 : ℤ) := by
  have hflip : sgn t * A = sgn s * -A := by
    rw [Bool.eq_not.2 h, sgn_not]
    ring
  rw [hflip, abs_sgn_mul_sub, show -A - B = -(A + B) by ring, abs_neg, abs_of_nonneg (add_nonneg hA hB)]

/-- A magnitude is a multiple of the step, or lies below every number that has that step. -/
theorem magVal_multiple_or_below (q M : Nat) :
    (∃ k, magVal M = k * 2 ^ q) ∨ (q ≠ 0 ∧ magVal M < 2 ^ 52 * 2 ^ q) := by
  obtain ⟨hM, -⟩ := magnitude_eq M
  rcases le_or_gt q (M / 2 ^ 52 - 1) with hq | hq
  · obtain ⟨j, hj⟩ := Nat.exists_eq_add_of_le' hq
    exact .inl ⟨magSig M * 2 ^ j, by rw [magVal, hj, pow_add, mul_assoc]⟩
  · refine .inr ⟨by omega, ?_⟩
    rw [← magVal_grid (q := q) (r := 2 ^ 52) (by decide) (.inr le_rfl)]
    exact magVal_strictMono (by have := magSig_lt M; omega)

namespace RoundsTo

variable {q r : Nat} {x : ℝ}

/-- No magnitude is nearer, and only an even multiple shares its distance with another magnitude. -/
theorem nearest_magVal (h : RoundsTo q x r) (M : Nat) :
    |(r : ℝ) * 2 ^ q - x * 2 ^ q| ≤ |(magVal M : ℝ) - x * 2 ^ q| ∧
    (|(r : ℝ) * 2 ^ q - x * 2 ^ q| = |(magVal M : ℝ) - x * 2 ^ q| → (magVal M : ℝ) ≠ r * 2 ^ q → r % 2 = 0) := by
  have hp : (0 : ℝ) < 2 ^ q := by positivity
  have scaled : ∀ k : Nat, |(k : ℝ) * 2 ^ q - x * 2 ^ q| = |(k : ℝ) - x| * 2 ^ q := fun k => by
    rw [← sub_mul, abs_mul, abs_of_pos hp]
  rcases magVal_multiple_or_below q M with ⟨k, hk⟩ | ⟨hq, hk⟩
  · obtain ⟨hle, heven⟩ := h.nearest_multiple k
    rw [hk]
    push_cast
    rw [scaled, scaled]
    refine ⟨by gcongr, fun he hne => heven (mul_right_cancel₀ hp.ne' he) ?_⟩
    rintro rfl
    exact hne rfl
  · have hle := (h.nearest_multiple (2 ^ 52)).1
    have hx : (2 ^ 52 : ℝ) ≤ x := h.low.resolve_left hq
    have hM : (magVal M : ℝ) < 2 ^ 52 * 2 ^ q := by exact_mod_cast hk
    have hfar : |(r : ℝ) * 2 ^ q - x * 2 ^ q| < |(magVal M : ℝ) - x * 2 ^ q| := by
      calc |(r : ℝ) * 2 ^ q - x * 2 ^ q| = |(r : ℝ) - x| * 2 ^ q := scaled r
        _ ≤ |((2 ^ 52 : Nat) : ℝ) - x| * 2 ^ q := by gcongr
        _ = (x - 2 ^ 52) * 2 ^ q := by
          rw [Nat.cast_pow, Nat.cast_ofNat, abs_sub_comm, abs_of_nonneg (sub_nonneg.2 hx)]
        _ < x * 2 ^ q - magVal M := by linarith
        _ ≤ |(magVal M : ℝ) - x * 2 ^ q| := by
          rw [abs_sub_comm]
          exact le_abs_self _
    exact ⟨hfar.le, fun he => absurd he hfar.ne⟩

/-- The end of the grid is reached from half a step below it on: the last odd multiple loses the tie. -/
theorem eq_end_iff (h : RoundsTo q x r) : r = 2 ^ 53 ↔ (2 ^ 53 - 1 / 2 : ℝ) ≤ x := by
  have hend : r = 2 ^ 53 ↔ (r : ℝ) = 2 ^ 53 := by rw [← Nat.cast_inj (R := ℝ), Nat.cast_pow, Nat.cast_ofNat]
  obtain ⟨hlo, hhi⟩ := abs_le.1 h.near
  constructor
  · intro hr
    have := hend.1 hr
    linarith
  · intro hx
    by_contra hne
    have hr : r ≤ 2 ^ 53 - 1 := by have := h.le; omega
    have hcast : ((2 ^ 53 - 1 : Nat) : ℝ) = 2 ^ 53 - 1 := by norm_num
    have hrR : (r : ℝ) ≤ 2 ^ 53 - 1 := hcast ▸ Nat.cast_le.2 hr
    have htie : r % 2 = 0 := h.even (by rw [abs_sub_comm, abs_of_nonneg] <;> linarith)
    have : (r : ℝ) = ((2 ^ 53 - 1 : Nat) : ℝ) := by rw [hcast]; linarith
    have := Nat.cast_injective this
    omega

/-- Infinity is reached from half a step above the largest finite value on. -/
theorem infMag_le_iff (h : RoundsTo q x r) :
    infMag ≤ q * 2 ^ 52 + r ↔ (2 ^ 2098 - 2 ^ 2044 : ℝ) ≤ x * 2 ^ q := by
  have hr := h.le
  have hg := h.grid
  have hbound : (2 ^ 2098 - 2 ^ 2044 : ℝ) = (2 ^ 53 - 1 / 2) * 2 ^ 2045 := by
    rw [show (2 : ℝ) ^ 2098 = 2 ^ 54 * 2 ^ 2044 by rw [← pow_add], pow_succ' 2 2044]
    generalize (2 : ℝ) ^ 2044 = P
    ring
  have hpos : (0 : ℝ) < 2 ^ 2045 := by positivity
  have hcases : infMag ≤ q * 2 ^ 52 + r ↔ 2046 ≤ q ∨ q = 2045 ∧ r = 2 ^ 53 := by
    unfold infMag
    omega
  rw [hcases, hbound]
  rcases lt_trichotomy q 2045 with hq | rfl | hq
  · refine iff_of_false (by omega) (not_le.2 ?_)
    calc x * 2 ^ q ≤ 2 ^ 53 * 2 ^ 2044 := by
          gcongr
          · exact h.high.le
          · norm_num
          · omega
      _ = 2 ^ 52 * 2 ^ 2045 := by rw [← pow_add, ← pow_add]
      _ < (2 ^ 53 - 1 / 2) * 2 ^ 2045 := by gcongr; norm_num
  · rw [mul_le_mul_iff_left₀ hpos, ← h.eq_end_iff]
    omega
  · refine iff_of_true (.inl hq) ?_
    have hx : (2 ^ 52 : ℝ) ≤ x := h.low.resolve_left (by omega)
    calc (2 ^ 53 - 1 / 2 : ℝ) * 2 ^ 2045 ≤ 2 ^ 53 * 2 ^ 2045 := by gcongr; norm_num
      _ = 2 ^ 52 * 2 ^ 2046 := by rw [← pow_add, ← pow_add]
      _ ≤ x * 2 ^ q := by
          gcongr
          · norm_num
          · exact hq

/-- No finite word is nearer to the number with its sign, and only an even multiple shares its distance. -/
theorem nearest_word (h : RoundsTo q x r) (s : Bool) (y : F64) :
    |sgn s * (r * 2 ^ q) * 2 ^ (-1074 : ℤ) - sgn s * (x * 2 ^ q) * 2 ^ (-1074 : ℤ)|
      ≤ |value y - sgn s * (x * 2 ^ q) * 2 ^ (-1074 : ℤ)| ∧
    (|sgn s * (r * 2 ^ q) * 2 ^ (-1074 : ℤ) - sgn s * (x * 2 ^ q) * 2 ^ (-1074 : ℤ)|
        = |value y - sgn s * (x * 2 ^ q) * 2 ^ (-1074 : ℤ)| →
      value y ≠ sgn s * (r * 2 ^ q) * 2 ^ (-1074 : ℤ) → r % 2 = 0) := by
  have hU : (0 : ℝ) < 2 ^ (-1074 : ℤ) := by positivity
  rw [abs_sgn_mul_sub, value_eq y]
  by_cases hs : sign y = s
  · obtain ⟨hle, heven⟩ := h.nearest_magVal (mag y)
    rw [hs, abs_sgn_mul_sub]
    exact ⟨by gcongr, fun he hne => heven (mul_right_cancel₀ hU.ne' he) fun h' => hne (by rw [h'])⟩
  · have hX : 0 ≤ x * 2 ^ q := mul_nonneg h.nonneg (by positivity)
    have hy : (0 : ℝ) ≤ magVal (mag y) := by positivity
    obtain ⟨hle, heven⟩ := h.nearest_magVal 0
    rw [magVal_zero, Nat.cast_zero, zero_sub, abs_neg, abs_of_nonneg hX] at hle heven
    rw [abs_sgn_mul_sub_of_ne hs hy hX]
    refine ⟨by gcongr; linarith, fun he hne => ?_⟩
    have he := mul_right_cancel₀ hU.ne' he
    have hy0 : (magVal (mag y) : ℝ) = 0 := by linarith
    refine heven (by linarith) fun h' => hne ?_
    rw [hy0, ← h']
    ring

/-- The word of the nearest multiple is the rounding of the number with its sign. -/
theorem isRounding (h : RoundsTo q x r) (s : Bool) :
    IsRounding (sgn s * (x * 2 ^ q) * 2 ^ (-1074 : ℤ)) (ofParts s (min infMag (q * 2 ^ 52 + r))) := by
  have hM : min infMag (q * 2 ^ 52 + r) < 2 ^ 63 := (min_le_left _ _).trans_lt infMag_lt
  have hU : (0 : ℝ) < 2 ^ (-1074 : ℤ) := by positivity
  have hX : 0 ≤ x * 2 ^ q := mul_nonneg h.nonneg (by positivity)
  have hover : overflowBound ≤ |sgn s * (x * 2 ^ q) * 2 ^ (-1074 : ℤ)| ↔ infMag ≤ q * 2 ^ 52 + r := by
    rw [abs_mul, abs_mul, abs_sgn, one_mul, abs_of_nonneg hX, abs_of_pos hU, overflowBound_eq,
      mul_le_mul_iff_left₀ hU, h.infMag_le_iff]
  simp only [IsRounding, hover]
  split
  next hinf =>
    have hpos : 0 < x * 2 ^ q * 2 ^ (-1074 : ℤ) := by
      have : (2 : ℝ) ^ 2044 < 2 ^ 2098 := pow_lt_pow_right₀ (by norm_num) (by norm_num)
      exact mul_pos ((sub_pos.2 this).trans_le (h.infMag_le_iff.1 hinf)) hU
    rw [min_eq_left hinf, sign_ofParts s infMag_lt]
    refine ⟨decide_eq_true (mag_ofParts s infMag_lt), ?_⟩
    cases s
    · rw [sgn_false, one_mul, decide_eq_false hpos.not_gt]
    · rw [sgn_true, neg_one_mul, neg_mul, decide_eq_true (neg_lt_zero.2 hpos)]
  next hfin =>
    rw [min_eq_right (by omega)] at hM ⊢
    have hval : value (ofParts s (q * 2 ^ 52 + r)) = sgn s * (r * 2 ^ q) * 2 ^ (-1074 : ℤ) := by
      rw [value_eq, mag_ofParts s hM, sign_ofParts s hM, h.magVal_eq]
    refine ⟨decide_eq_true (by rw [mag_ofParts s hM]; omega), fun y _ => ?_⟩
    obtain ⟨hle, heven⟩ := h.nearest_word s y
    rw [← magSig_mag, mag_ofParts s hM, hval]
    exact ⟨hle, fun he hne => magSig_grid_even (heven he hne)⟩

end RoundsTo

/-- The model's shift is the nearest multiple of the step that the magnitude's top bit asks for. -/
theorem roundsTo_roundShift {m k : Nat} :
    RoundsTo (Nat.log2 m - (k + 52)) (m / 2 ^ (Nat.log2 m - (k + 52) + k))
      (roundShift m (Nat.log2 m - (k + 52) + k)) := by
  obtain ⟨q, hq⟩ : ∃ q, Nat.log2 m - (k + 52) = q := ⟨_, rfl⟩
  rw [hq]
  have hp : (0 : ℝ) < 2 ^ (q + k) := by positivity
  obtain ⟨hlo, hhi, heven⟩ := roundShift_near m (q + k)
  generalize roundShift m (q + k) = r at *
  have hlo' : 2 * (m : ℝ) ≤ (2 * r + 1) * 2 ^ (q + k) := by exact_mod_cast hlo
  have hhi' : 2 * (r : ℝ) * 2 ^ (q + k) ≤ 2 * m + 2 ^ (q + k) := by exact_mod_cast hhi
  obtain ⟨x, hx⟩ : ∃ x : ℝ, (m : ℝ) / 2 ^ (q + k) = x := ⟨_, rfl⟩
  have hm : (m : ℝ) = x * 2 ^ (q + k) := by rw [← hx, div_mul_cancel₀ _ hp.ne']
  rw [hx]
  refine ⟨?_, ?_, ?_, ?_, ?_⟩
  · rw [← hx]; positivity
  · rcases Nat.eq_zero_or_pos q with h0 | h0
    · exact .inl h0
    · refine .inr ?_
      have hm0 : m ≠ 0 := by rintro rfl; simp at hq; omega
      have : 2 ^ 52 * 2 ^ (q + k) ≤ m := by
        rw [← pow_add, show 52 + (q + k) = Nat.log2 m by omega]
        exact Nat.log2_self_le hm0
      rw [← hx, le_div_iff₀ hp]
      exact_mod_cast this
  · have : m < 2 ^ 53 * 2 ^ (q + k) := by
      rw [← pow_add]
      exact Nat.lt_log2_self.trans_le (Nat.pow_le_pow_right (by decide) (by omega))
    rw [← hx, div_lt_iff₀ hp]
    exact_mod_cast this
  · rw [hm] at hlo' hhi'
    rw [abs_le]
    constructor
    · refine le_of_mul_le_mul_right ?_ hp
      linarith
    · refine le_of_mul_le_mul_right ?_ hp
      linarith
  · intro h
    apply heven
    rcases (abs_eq (by norm_num : (0 : ℝ) ≤ 1 / 2)).1 h with h | h
    · right
      have : 2 * (r : ℝ) * 2 ^ (q + k) = 2 * m + 2 ^ (q + k) := by rw [hm, show (r : ℝ) = x + 1 / 2 by linarith]; ring
      exact_mod_cast this
    · left
      have : 2 * (m : ℝ) = (2 * r + 1) * 2 ^ (q + k) := by rw [hm, show (r : ℝ) = x - 1 / 2 by linarith]; ring
      exact_mod_cast this

/-- Rounding does round: to nearest, ties to even (R7). -/
theorem isRounding_round (s : Bool) (m : Nat) (e : Int) :
    IsRounding (sgn s * m * 2 ^ (e - 1074)) (round s m e) := by
  obtain ⟨j, k, rfl⟩ : ∃ j k : Nat, e = -(k : Int) + j := ⟨e.toNat, (-e).toNat, by omega⟩
  have h := (roundsTo_roundShift (m := m * 2 ^ j) (k := k)).isRounding s
  rw [← roundMag_neg, roundMag_mul_pow] at h
  change IsRounding _ (ofParts s (roundMag m _))
  convert h using 1
  rw [pow_add, sub_eq_add_neg, zpow_add₀ two_ne_zero, zpow_add₀ two_ne_zero, zpow_neg, zpow_natCast, zpow_natCast]
  push_cast
  field_simp

end Sys2Proof.Machine.Float64
end

section
/-! PROOFS. Addition, subtraction and multiplication of finite words round once (00_scope R7), and the exactness facts E1
to E6 (R10) from that. -/

namespace Sys2Proof.Machine.Float64

/-! ### A rounding that is exact -/

/-- A finite word is the rounding of its own value. -/
theorem isRounding_self {a : F64} (h : isFinite a = true) : IsRounding (value a) a := by
  have hr := isRounding_round (sign a) (significand a) (scale a)
  rwa [round_significand h, ← value_eq_significand] at hr

/-- The value of a finite word is rounded to itself. -/
theorem IsRounding.value_eq {x : ℝ} {r c : F64} (hr : IsRounding x r) (hc : isFinite c = true) (hx : value c = x) :
    value r = x := by
  have hself := isRounding_self hc
  unfold IsRounding at hr hself
  rw [hx] at hself
  by_cases ho : overflowBound ≤ |x|
  · rw [if_pos ho, not_isInf_of_isFinite hc] at hself
    exact absurd hself.1 Bool.false_ne_true
  · rw [if_neg ho] at hr
    have := (hr.2 c hc).1
    rw [hx, sub_self, abs_zero] at this
    exact sub_eq_zero.1 (abs_nonpos_iff.1 this)

/-! ### The operations on finite words -/

theorem isFinite_neg (a : F64) : isFinite (neg a) = isFinite a := by simp [isFinite]

theorem add_of_isFinite (d : Nat) {a b : F64} (ha : isFinite a = true) (hb : isFinite b = true) :
    add d a b = addFinite a b := by
  simp [add, not_isNaN_of_isFinite, not_isInf_of_isFinite, ha, hb]

theorem mul_of_isFinite (d : Nat) {a b : F64} (ha : isFinite a = true) (hb : isFinite b = true) :
    mul d a b = round (sign a != sign b) (significand a * significand b) ((scale a : Int) + scale b - 1074) := by
  simp [mul, not_isNaN_of_isFinite, not_isInf_of_isFinite, ha, hb]

theorem mul_comm_of_isFinite (d d' : Nat) {a b : F64} (ha : isFinite a = true) (hb : isFinite b = true) :
    mul d a b = mul d' b a := by
  rw [mul_of_isFinite d ha hb, mul_of_isFinite d' hb ha, bne_comm, Nat.mul_comm, Int.add_comm (scale a)]

theorem sgn_mul_natAbs (x : Int) : sgn (decide (x < 0)) * (x.natAbs : ℝ) = x := by
  rw [Nat.cast_natAbs, Int.cast_abs]
  rcases lt_or_ge x 0 with h | h
  · have : (x : ℝ) < 0 := by exact_mod_cast h
    simp [h, abs_of_neg this]
  · have : (0 : ℝ) ≤ x := by exact_mod_cast h
    simp [h.not_gt, abs_of_nonneg this]

/-- The integer sum is the sum of the values, in its own unit. -/
theorem exactSum_mul_unit (a b : F64) :
    (exactSum a b : ℝ) * 2 ^ ((min (scale a) (scale b) : Nat) - 1074 : ℤ) = value a + value b := by
  have hshift : ∀ (S : Int) {k e : Nat}, e ≤ k →
      (S : ℝ) * 2 ^ (k - e) * 2 ^ ((e : ℤ) - 1074) = S * 2 ^ ((k : ℤ) - 1074) := fun S k e h => by
    rw [mul_assoc, ← zpow_natCast, ← zpow_add₀ two_ne_zero, Nat.cast_sub h]
    congr 2
    ring
  have ha := hshift (signedSignificand a) (min_le_left (scale a) (scale b))
  have hb := hshift (signedSignificand b) (min_le_right (scale a) (scale b))
  simp only [exactSum, value]
  push_cast [-Nat.cast_min]
  rw [add_mul, ha, hb]

theorem isRounding_add (d : Nat) {a b : F64} (ha : isFinite a = true) (hb : isFinite b = true) :
    IsRounding (value a + value b) (add d a b) := by
  rw [add_of_isFinite d ha hb, ← exactSum_mul_unit, addFinite]
  generalize exactSum a b = S
  split
  next h =>
    have := isRounding_round (sign a && sign b && isZero a) 0 0
    rw [Nat.cast_zero, mul_zero, zero_mul] at this
    rw [h, Int.cast_zero, zero_mul]
    exact this
  next => rw [← sgn_mul_natAbs]; exact isRounding_round _ _ _

theorem isRounding_sub (d : Nat) {a b : F64} (ha : isFinite a = true) (hb : isFinite b = true) :
    IsRounding (value a - value b) (sub d a b) := by
  rw [sub_eq_add_neg, ← value_neg]
  exact isRounding_add d ha ((isFinite_neg b).trans hb)

theorem isRounding_mul (d : Nat) {a b : F64} (ha : isFinite a = true) (hb : isFinite b = true) :
    IsRounding (value a * value b) (mul d a b) := by
  rw [mul_of_isFinite d ha hb]
  convert isRounding_round _ _ _ using 1
  rw [value_eq_significand, value_eq_significand, sgn_bne, Nat.cast_mul,
    show (scale a : ℤ) + scale b - 1074 - 1074 = (scale a - 1074) + (scale b - 1074) by ring, zpow_add₀ two_ne_zero]
  ring

/-! ### Powers of two -/

theorem mag_fromNat_two_pow {j : Nat} (hj : j ≤ 1023) : mag (fromNat (2 ^ j)) = (1022 + j) * 2 ^ 52 + 2 ^ 52 := by
  have hgrid := magVal_grid (q := 1022 + j) (r := 2 ^ 52) (by decide) (.inr le_rfl)
  have hunit : ((2 ^ j : Nat) : ℝ) * 2 ^ (1074 : ℤ) = ((2 ^ 52 : Nat) : ℝ) * 2 ^ ((1022 + j : Nat) : ℤ) := by
    rw [zpow_natCast, zpow_ofNat, Nat.cast_pow, Nat.cast_pow, Nat.cast_ofNat, ← pow_add, ← pow_add]
    congr 1
    omega
  rw [fromNat, mag_round, roundMag_congr hunit]
  apply magVal_strictMono.injective
  rw [hgrid]
  refine magVal_roundMag (by decide) ?_
  rw [← pow_add, Nat.pow_lt_pow_iff_right (by decide)]
  omega

theorem significand_fromNat_two_pow {j : Nat} (hj : j ≤ 1023) : significand (fromNat (2 ^ j)) = 2 ^ 52 := by
  rw [← magSig_mag, mag_fromNat_two_pow hj]
  unfold magSig
  split <;> omega

theorem scale_fromNat_two_pow {j : Nat} (hj : j ≤ 1023) : scale (fromNat (2 ^ j)) = 1022 + j := by
  rw [scale, mag_fromNat_two_pow hj]
  omega

theorem isFinite_fromNat_two_pow {j : Nat} (hj : j ≤ 1023) : isFinite (fromNat (2 ^ j)) = true := by
  refine decide_eq_true ?_
  rw [mag_fromNat_two_pow hj, infMag]
  omega

theorem isZero_fromNat_two_pow {j : Nat} (hj : j ≤ 1023) : isZero (fromNat (2 ^ j)) = false := by
  refine decide_eq_false ?_
  rw [mag_fromNat_two_pow hj]
  omega

@[simp] theorem sign_fromNat (n : Nat) : sign (fromNat n) = false := sign_round _ _ _

theorem value_fromNat_two_pow {j : Nat} (hj : j ≤ 1023) : value (fromNat (2 ^ j)) = 2 ^ j := by
  rw [value_eq_significand, significand_fromNat_two_pow hj, scale_fromNat_two_pow hj, sign_fromNat, sgn_false, one_mul,
    Nat.cast_pow, Nat.cast_ofNat, ← zpow_natCast, ← zpow_natCast, ← zpow_add₀ two_ne_zero]
  congr 1
  push_cast
  ring

theorem fromNat_one_eq : fromNat 1 = fromNat (2 ^ 0) := rfl
theorem fromNat_two_eq : fromNat 2 = fromNat (2 ^ 1) := rfl

theorem sign_of_value_pos {a : F64} (h : 0 < value a) : sign a = false := by
  by_contra hs
  rw [Bool.not_eq_false] at hs
  rw [value_eq, hs, sgn_true] at h
  have : (0 : ℝ) ≤ magVal (mag a) * 2 ^ (-1074 : ℤ) := by positivity
  linarith

/-- Multiplying by a power of two shifts the exponent and rounds once. -/
theorem mul_of_value_zpow (d : Nat) {a b : F64} {t : Int} (ha : isFinite a = true) (hb : isFinite b = true)
    (h : value b = 2 ^ t) : mul d b a = round (sign a) (significand a) (scale a + t) := by
  have hs : sign b = false := sign_of_value_pos (h ▸ by positivity)
  rw [mul_of_isFinite d hb ha, hs, Bool.false_bne]
  apply round_congr
  rw [value_eq_significand, hs, sgn_false, one_mul] at h
  rw [zpow_add₀ two_ne_zero, ← h, Nat.cast_mul,
    show (scale b : ℤ) + scale a - 1074 = scale a + (scale b - 1074) by ring, zpow_add₀ two_ne_zero]
  ring

/-- Dividing by a power of two shifts the exponent and rounds once. -/
theorem div_fromNat_two_pow (d : Nat) {a : F64} {j : Nat} (ha : isFinite a = true) (hj : j ≤ 1023) :
    div d a (fromNat (2 ^ j)) = round (sign a) (significand a) (scale a - j) := by
  have hb := isFinite_fromNat_two_pow hj
  have hlog : Nat.log2 (2 ^ 52) = 52 := by decide
  have hquot : stickyQuotient (significand a * 2 ^ (55 + 52)) (2 ^ 52) = significand a * 2 ^ 56 := by
    unfold stickyQuotient
    split <;> omega
  simp only [div, not_isNaN_of_isFinite ha, not_isInf_of_isFinite ha, not_isNaN_of_isFinite hb, not_isInf_of_isFinite hb,
    isZero_fromNat_two_pow hj, significand_fromNat_two_pow hj, scale_fromNat_two_pow hj, sign_fromNat, hlog, hquot,
    Bool.or_self, Bool.false_eq_true, if_false, Bool.bne_false]
  rw [round, roundMag_mul_pow, round]
  congr 2
  push_cast
  ring

theorem value_div_two_pow_eq (a : F64) (j : Nat) :
    value a / 2 ^ j = sgn (sign a) * significand a * 2 ^ ((scale a : ℤ) - j - 1074) := by
  rw [value_eq_significand, show (scale a : ℤ) - j - 1074 = scale a - 1074 - j by ring,
    zpow_sub₀ two_ne_zero (scale a - 1074 : ℤ), zpow_natCast, mul_div_assoc]

theorem isRounding_div_two_pow (d : Nat) {a : F64} {j : Nat} (ha : isFinite a = true) (hj : j ≤ 1023) :
    IsRounding (value a / 2 ^ j) (div d a (fromNat (2 ^ j))) := by
  rw [div_fromNat_two_pow d ha hj, value_div_two_pow_eq]
  exact isRounding_round _ _ _

/-- A quotient that is not subnormal keeps its significand. -/
theorem value_div_two_pow (d : Nat) {a : F64} {j : Nat} (ha : isFinite a = true) (hj : j ≤ 1023)
    (h : (2 : ℝ) ^ (-1022 : ℤ) ≤ |value a / 2 ^ j|) : value (div d a (fromNat (2 ^ j))) = value a / 2 ^ j := by
  have hscale : (-1 : ℤ) < scale a - j := by
    rw [value_div_two_pow_eq, abs_mul, abs_mul, abs_sgn, one_mul, Nat.abs_cast, abs_of_pos (by positivity)] at h
    have hsig : (significand a : ℝ) < 2 ^ (53 : ℤ) := by exact_mod_cast significand_lt a
    have := h.trans_lt (mul_lt_mul_of_pos_right hsig (by positivity))
    rw [← zpow_add₀ two_ne_zero, zpow_lt_zpow_iff_right₀ one_lt_two] at this
    omega
  obtain ⟨e, he⟩ : ∃ e : Nat, (scale a : ℤ) - j = e := ⟨scale a - j, by omega⟩
  have hlt : significand a * 2 ^ e < 2 ^ 2098 := by
    calc significand a * 2 ^ e ≤ significand a * 2 ^ scale a := by gcongr <;> omega
      _ < 2 ^ 2098 := magVal_lt_iff.2 (mag_of_isFinite ha)
  rw [div_fromNat_two_pow d ha hj, value_div_two_pow_eq, he]
  exact (round_exact (sign a) (significand_lt a) hlt).2

theorem value_inv_two_pow (d : Nat) {j : Nat} (hj : j ≤ 1023) :
    isFinite (div d (fromNat 1) (fromNat (2 ^ j))) = true ∧
    value (div d (fromNat 1) (fromNat (2 ^ j))) = 2 ^ (-(j : ℤ)) := by
  have hone : isFinite (fromNat 1) = true := isFinite_fromNat_two_pow (j := 0) (by decide)
  obtain ⟨hfin, hval⟩ := round_exact false (m := 1) (e := 1074 - j) (by decide)
    (by rw [one_mul, Nat.pow_lt_pow_iff_right (by decide)]; omega)
  have hround : div d (fromNat 1) (fromNat (2 ^ j)) = round false 1 ((1074 - j : Nat) : Int) := by
    rw [div_fromNat_two_pow d hone hj, sign_fromNat, fromNat_one_eq, significand_fromNat_two_pow (by decide),
      scale_fromNat_two_pow (by decide)]
    apply round_congr
    rw [Nat.cast_pow, Nat.cast_ofNat, ← zpow_natCast, ← zpow_add₀ two_ne_zero, Nat.cast_one, one_mul]
    congr 1
    push_cast [Nat.cast_sub (show j ≤ 1074 by omega)]
    ring
  rw [hround]
  refine ⟨hfin, ?_⟩
  rw [hval, sgn_false, one_mul, Nat.cast_one, one_mul]
  congr 1
  omega

theorem div_two_pow_eq_mul_inv (d d' d'' : Nat) {a : F64} {j : Nat} (ha : isFinite a = true) (hj : j ≤ 1023) :
    div d a (fromNat (2 ^ j)) = mul d' a (div d'' (fromNat 1) (fromNat (2 ^ j))) := by
  obtain ⟨hfin, hval⟩ := value_inv_two_pow d'' hj
  rw [mul_comm_of_isFinite d' d' ha hfin, mul_of_value_zpow d' ha hfin hval, div_fromNat_two_pow d ha hj, sub_eq_add_neg]

theorem value_two_mul (d : Nat) {a : F64} (ha : isFinite a = true) (h : |value a| < 2 ^ 1023) :
    value (mul d (fromNat 2) a) = 2 * value a := by
  have htwo := value_fromNat_two_pow (j := 1) (by decide)
  have hlt : significand a * 2 ^ (scale a + 1) < 2 ^ 2098 := by
    rw [abs_value, ← unit_mul, mul_lt_mul_iff_left₀ (by positivity), magVal_mag] at h
    have : significand a * 2 ^ scale a < 2 ^ (1023 + 1074) := by exact_mod_cast h
    rw [pow_succ, ← mul_assoc, show 2098 = 1023 + 1074 + 1 by decide, pow_succ 2 (1023 + 1074)]
    omega
  rw [fromNat_two_eq, mul_of_value_zpow d ha (isFinite_fromNat_two_pow (by decide)) (t := (1 : Nat))
    (by rw [htwo, zpow_natCast]), ← Nat.cast_add, (round_exact (sign a) (significand_lt a) hlt).2, value_eq_significand,
    show ((scale a + 1 : Nat) : ℤ) - 1074 = scale a - 1074 + 1 by push_cast; ring, zpow_add_one₀ two_ne_zero]
  ring

theorem value_half (d : Nat) {a : F64} (ha : isFinite a = true) (h : (2 : ℝ) ^ (-1021 : ℤ) ≤ |value a|) :
    value (div d a (fromNat 2)) = value a / 2 := by
  have := value_div_two_pow d (j := 1) ha (by decide) (by
    rw [pow_one, abs_div, abs_two, le_div_iff₀ two_pos, ← zpow_add_one₀ two_ne_zero]
    exact h)
  simpa only [pow_one] using this

/-! ### Commutativity -/

theorem isNaN_nan (d : Nat) : isNaN (nan d) = true := by
  unfold nan nanOf
  have h : ∀ n, infMag + (if n % 2 ^ 52 = 0 then 1 else n % 2 ^ 52) < 2 ^ 63 ∧
      infMag < infMag + (if n % 2 ^ 52 = 0 then 1 else n % 2 ^ 52) := fun n => by
    unfold infMag
    split <;> omega
  obtain ⟨h63, hinf⟩ := h (Config.nanDraw d).toNat
  rw [isNaN, mag_ofParts _ h63]
  exact decide_eq_true hinf

theorem sameValue_nan (d d' : Nat) : SameValue (nan d) (nan d') := .inr ⟨isNaN_nan d, isNaN_nan d'⟩

theorem not_isNaN_of_isInf {a : F64} (h : isInf a = true) : isNaN a = false :=
  decide_eq_false (mag_of_isInf h).le.not_gt

theorem mul_of_isInf (d : Nat) {a b : F64} (ha : isNaN a = false) (hb : isNaN b = false)
    (h : (isInf a || isInf b) = true) :
    mul d a b = if isZero a || isZero b then nan d else ofParts (sign a != sign b) infMag := by
  simp [mul, ha, hb, h]

theorem mul_comm_sameValue (d d' : Nat) {a b : F64} (ha : isNaN a = false) (hb : isNaN b = false) :
    SameValue (mul d a b) (mul d' b a) := by
  by_cases hinf : (isInf a || isInf b) = true
  · rw [mul_of_isInf d ha hb hinf, mul_of_isInf d' hb ha (by rwa [Bool.or_comm]), Bool.or_comm (isZero b),
      bne_comm (a := sign b)]
    split
    · exact sameValue_nan d d'
    · exact .inl rfl
  · rw [Bool.or_eq_true, not_or] at hinf
    exact .inl (mul_comm_of_isFinite d d' ((isInf_or_isFinite ha).resolve_left hinf.1)
      ((isInf_or_isFinite hb).resolve_left hinf.2))

theorem add_of_isInf_isInf (d : Nat) {a b : F64} (ha : isInf a = true) (hb : isInf b = true) :
    add d a b = if sign a != sign b then nan d else a := by
  simp [add, not_isNaN_of_isInf, ha, hb]

theorem add_of_isInf_isFinite (d : Nat) {a b : F64} (ha : isInf a = true) (hb : isFinite b = true) : add d a b = a := by
  simp [add, not_isNaN_of_isInf, not_isNaN_of_isFinite, not_isInf_of_isFinite, ha, hb]

theorem add_of_isFinite_isInf (d : Nat) {a b : F64} (ha : isFinite a = true) (hb : isInf b = true) : add d a b = b := by
  simp [add, not_isNaN_of_isInf, not_isNaN_of_isFinite, not_isInf_of_isFinite, ha, hb]

theorem exactSum_comm (a b : F64) : exactSum a b = exactSum b a := by
  simp only [exactSum, min_comm (scale a)]
  ring

theorem natAbs_signedSignificand (a : F64) : (signedSignificand a).natAbs = significand a := by
  unfold signedSignificand
  split <;> simp

/-- Two negative words whose sum is zero are both zero. -/
theorem isZero_of_exactSum_eq_zero {a b : F64} (h : exactSum a b = 0) (ha : sign a = true) (hb : sign b = true) :
    isZero a = true := by
  simp only [exactSum, signedSignificand, ha, hb, if_true] at h
  have hpa : (0 : Int) < 2 ^ (scale a - min (scale a) (scale b)) := by positivity
  have hpb : (0 : Int) ≤ significand b * 2 ^ (scale b - min (scale a) (scale b)) := by positivity
  have hzero : (significand a : Int) * 2 ^ (scale a - min (scale a) (scale b)) = 0 :=
    le_antisymm (by linarith) (by positivity)
  have : (significand a : Int) = 0 := (mul_eq_zero.1 hzero).resolve_right hpa.ne'
  exact decide_eq_true ((significand_eq_zero_iff a).1 (by exact_mod_cast this))

theorem addFinite_comm (a b : F64) : addFinite a b = addFinite b a := by
  have hcomm := exactSum_comm a b
  simp only [addFinite, ← hcomm, min_comm (scale b)]
  split
  next h =>
    congr 1
    rcases Bool.eq_false_or_eq_true (sign a) with ha | ha <;> rcases Bool.eq_false_or_eq_true (sign b) with hb | hb
    · rw [isZero_of_exactSum_eq_zero h ha hb, isZero_of_exactSum_eq_zero (hcomm ▸ h) hb ha, Bool.and_comm (sign a)]
    all_goals simp [ha, hb]
  next => rfl

theorem add_comm_sameValue (d d' : Nat) {a b : F64} (ha : isNaN a = false) (hb : isNaN b = false) :
    SameValue (add d a b) (add d' b a) := by
  rcases isInf_or_isFinite ha with ha | ha <;> rcases isInf_or_isFinite hb with hb | hb
  · rw [add_of_isInf_isInf d ha hb, add_of_isInf_isInf d' hb ha, bne_comm (a := sign b)]
    split
    next => exact sameValue_nan d d'
    next hs => exact .inl (eq_of_sign_mag (by simpa using hs) ((mag_of_isInf ha).trans (mag_of_isInf hb).symm))
  · rw [add_of_isInf_isFinite d ha hb, add_of_isFinite_isInf d' hb ha]
    exact .inl rfl
  · rw [add_of_isFinite_isInf d ha hb, add_of_isInf_isFinite d' hb ha]
    exact .inl rfl
  · rw [add_of_isFinite d ha hb, add_of_isFinite d' hb ha, addFinite_comm]
    exact .inl rfl

/-! ### Neutral elements and zero differences -/

theorem isFinite_zero : isFinite zero = true := by decide

theorem one_mul_eq (d : Nat) {a : F64} (h : isNaN a = false) : mul d (fromNat 1) a = a := by
  have hone : isFinite (fromNat 1) = true := isFinite_fromNat_two_pow (j := 0) (by decide)
  have hone0 : isZero (fromNat 1) = false := isZero_fromNat_two_pow (j := 0) (by decide)
  rcases isInf_or_isFinite h with ha | ha
  · have ha0 : isZero a = false := decide_eq_false (by rw [mag_of_isInf ha]; decide)
    rw [mul_of_isInf d (not_isNaN_of_isFinite hone) h (by simp [ha]), hone0, ha0, sign_fromNat, Bool.false_bne,
      ← mag_of_isInf ha]
    exact ofParts_sign_mag a
  · have hval := value_fromNat_two_pow (j := 0) (by decide)
    rw [mul_of_value_zpow d ha hone (t := 0) (by rw [fromNat_one_eq, hval, pow_zero, zpow_zero]), add_zero,
      round_significand ha]

theorem eq_zero_or_eq_neg_zero {a : F64} (h : isZero a = true) : a = zero ∨ a = neg zero := by
  have hm := mag_of_isZero h
  rcases Bool.eq_false_or_eq_true (sign a) with hs | hs
  · exact .inr (eq_of_sign_mag (by rw [hs]; decide) (by rw [hm]; decide))
  · exact .inl (eq_of_sign_mag (by rw [hs]; decide) (by rw [hm]; decide))

theorem addFinite_zero {a : F64} (ha : isFinite a = true) (h0 : isZero a = false) : addFinite a zero = a := by
  have hsig : significand a ≠ 0 := fun h => of_decide_eq_false h0 ((significand_eq_zero_iff a).1 h)
  have hss : signedSignificand zero = 0 := by decide
  have hsc : scale zero = 0 := by decide
  have hsum : exactSum a zero = signedSignificand a * 2 ^ scale a := by
    simp only [exactSum, hss, hsc, Nat.min_zero, Nat.sub_zero, zero_mul, add_zero]
  have hne : signedSignificand a * 2 ^ scale a ≠ 0 :=
    mul_ne_zero (fun h => hsig (by rw [← natAbs_signedSignificand, h]; rfl)) (by positivity)
  have hneg : decide (signedSignificand a * 2 ^ scale a < 0) = sign a := by
    have hpos : (0 : Int) < 2 ^ scale a := by positivity
    rcases Bool.eq_false_or_eq_true (sign a) with hs | hs
    · rw [hs, signedSignificand, if_pos hs]
      exact decide_eq_true (mul_neg_of_neg_of_pos (by omega) hpos)
    · rw [hs, signedSignificand, hs, if_neg Bool.false_ne_true]
      exact decide_eq_false (not_lt.2 (by positivity))
  have habs : (signedSignificand a * 2 ^ scale a).natAbs = significand a * 2 ^ scale a := by
    rw [Int.natAbs_mul, natAbs_signedSignificand, Int.natAbs_pow]
    rfl
  simp only [addFinite, hsum, if_neg hne, hneg, habs, hsc, Nat.min_zero]
  rw [round, roundMag_mul_pow, Nat.cast_zero, zero_add]
  exact round_significand ha

theorem add_zero_eq (d : Nat) {a : F64} (h : isNaN a = false) :
    add d a zero = if a = neg zero then zero else a := by
  rcases isInf_or_isFinite h with ha | ha
  · have hne : a ≠ neg zero := by rintro rfl; exact absurd ha (by decide)
    rw [add_of_isInf_isFinite d ha isFinite_zero, if_neg hne]
  rw [add_of_isFinite d ha isFinite_zero]
  rcases Bool.eq_false_or_eq_true (isZero a) with h0 | h0
  · rcases eq_zero_or_eq_neg_zero h0 with rfl | rfl
    · decide
    · decide
  · have hne : a ≠ neg zero := by rintro rfl; exact absurd h0 (by decide)
    rw [addFinite_zero ha h0, if_neg hne]

theorem scale_neg (a : F64) : scale (neg a) = scale a := by simp [scale]

theorem signedSignificand_neg (a : F64) : signedSignificand (neg a) = -signedSignificand a := by
  have hsig : significand (neg a) = significand a := by simp [significand]
  unfold signedSignificand
  rw [sign_neg, hsig]
  cases sign a <;> simp

theorem sub_self_eq (d : Nat) {a : F64} (h : isFinite a = true) : sub d a a = zero := by
  have hsum : exactSum a (neg a) = 0 := by
    simp only [exactSum, scale_neg, signedSignificand_neg, min_self]
    ring
  rw [sub, add_of_isFinite d h ((isFinite_neg a).trans h), addFinite, hsum]
  simp [zero]

theorem neg_zero_sub_zero (d : Nat) : sub d (neg zero) zero = neg zero := by
  rw [sub, add_of_isFinite d (by decide) (by decide)]
  decide

/-! ### Integers -/

theorem signed_round (s : Bool) (m : Nat) (e : Int) : signed s (round false m e) = round s m e := by
  cases s
  · rfl
  · exact eq_of_sign_mag (by simp [signed]) (by simp [signed])

theorem fromInt_exact {x : Int} (h : x.natAbs < 2 ^ 53) :
    isFinite (fromInt x) = true ∧ value (fromInt x) = x := by
  have hlt : x.natAbs * 2 ^ 1074 < 2 ^ 2098 := by
    calc x.natAbs * 2 ^ 1074 < 2 ^ 53 * 2 ^ 1074 := by gcongr
      _ < 2 ^ 2098 := by rw [← pow_add, Nat.pow_lt_pow_iff_right (by decide)]; decide
  have hex := round_exact (decide (x < 0)) h hlt
  rw [show ((1074 : Nat) : ℤ) - 1074 = 0 by norm_num, zpow_zero, mul_one, sgn_mul_natAbs] at hex
  rw [fromInt, fromNat, signed_round]
  exact hex

/-- An operation that rounds once is exact where its exact result is an integer below 2^53. -/
theorem value_of_isRounding_int {z : Int} {r : F64} (h : z.natAbs < 2 ^ 53) (hr : IsRounding (z : ℝ) r) : value r = z := by
  obtain ⟨hfin, hval⟩ := fromInt_exact h
  exact hr.value_eq hfin hval

theorem value_fromInt_ops (d : Nat) {x y : Int} (hx : x.natAbs < 2 ^ 53) (hy : y.natAbs < 2 ^ 53) :
    ((x + y).natAbs < 2 ^ 53 → value (add d (fromInt x) (fromInt y)) = ((x + y : Int) : ℝ)) ∧
    ((x - y).natAbs < 2 ^ 53 → value (sub d (fromInt x) (fromInt y)) = ((x - y : Int) : ℝ)) ∧
    ((x * y).natAbs < 2 ^ 53 → value (mul d (fromInt x) (fromInt y)) = ((x * y : Int) : ℝ)) := by
  obtain ⟨hfx, hvx⟩ := fromInt_exact hx
  obtain ⟨hfy, hvy⟩ := fromInt_exact hy
  have hadd := isRounding_add d hfx hfy
  have hsub := isRounding_sub d hfx hfy
  have hmul := isRounding_mul d hfx hfy
  rw [hvx, hvy] at hadd hsub hmul
  exact ⟨fun h => value_of_isRounding_int h (by rwa [Int.cast_add]),
    fun h => value_of_isRounding_int h (by rwa [Int.cast_sub]),
    fun h => value_of_isRounding_int h (by rwa [Int.cast_mul])⟩

end Sys2Proof.Machine.Float64

namespace Sys2Proof.Machine

open Float64

/-- Settles O48: each clause is the lemma of its fact. -/
theorem exactnessFacts : Obligations.ExactnessFacts := by
  refine ⟨?e1, ?e2, ?e3, ?e4, ?e5, ?e6⟩
  case e1 =>
    exact fun d d' d'' a j ha hj =>
      ⟨isRounding_div_two_pow d ha hj, value_div_two_pow d ha hj, div_two_pow_eq_mul_inv d d' d'' ha hj⟩
  case e2 => exact fun d a ha => ⟨value_two_mul d ha, value_half d ha⟩
  case e3 => exact fun d d' a b ha hb => ⟨add_comm_sameValue d d' ha hb, mul_comm_sameValue d d' ha hb⟩
  case e4 => exact fun d a ha => ⟨one_mul_eq d ha, add_zero_eq d ha⟩
  case e5 =>
    intro d
    have hpos : sub d zero zero = zero := sub_self_eq d isFinite_zero
    exact ⟨fun a => sub_self_eq d, hpos, add_zero_eq d (by decide), hpos, neg_zero_sub_zero d⟩
  case e6 => exact fun d x y hx hy => value_fromInt_ops d hx hy

end Sys2Proof.Machine
end

section
/-! PROOFS. What reset leaves (10_state R40, 70_reset R190): STATUS reads 0 and both outputs are low, and a memory that
lists no byte has every ghost bit clear and no specified lane. -/

namespace Sys2Proof.Machine

/-! ### A memory without bytes -/

@[simp] theorem Memory.readLane_nil (a : Nat) : Memory.readLane [] a = none := rfl

theorem State.written_of_mem_nil {s : State} (h : s.mem = []) (k : Nat) (l : Lane) : s.written k l = false := by
  simp [State.written, h]

theorem State.specified_of_mem_nil {s : State} (h : s.mem = []) (k : Nat) (l : Lane) : s.specified k l = false := by
  simp [State.specified, h]

/-! ### STATUS, CAP and the outputs -/

@[simp] theorem Status.reset_word : Status.reset.word = 0 := by decide

theorem State.cap_eq (s : State) : s.cap = 0x400#32 := rfl

theorem State.busy_of_status_reset {s : State} (h : s.status = Status.reset) : s.busy = false := by
  rw [State.busy, h]; rfl

theorem State.done_of_status_reset {s : State} (h : s.status = Status.reset) : s.done = false := by
  rw [State.done, h]; rfl

/-! ### The reset event and the reset state -/

@[simp] theorem happen_reset (presented : Option HostTx) (s : State) :
    happen (.reset presented) s = .next s.afterReset := rfl

/-- Settles O17: the presented transaction is not looked at, and both states have the STATUS of reset and an empty
memory, whose lemmas give the outputs and the ghost bits. -/
theorem resetGivesTheResetState : Obligations.ResetGivesTheResetState := by
  refine ⟨fun s presented => ⟨s.afterReset, happen_reset presented s, ?event⟩, ?state⟩
  case event =>
    have hstatus : s.afterReset.status = Status.reset := s.afterReset_status
    have hmem : s.afterReset.mem = [] := s.afterReset_mem
    exact ⟨Status.reset_word, rfl, s.afterReset_len, s.afterReset_rlen, State.cap_eq _, s.afterReset_cmd,
      s.afterReset_seq, State.busy_of_status_reset hstatus, State.done_of_status_reset hstatus, s.afterReset_events,
      fun k l => ⟨State.written_of_mem_nil hmem k l, State.specified_of_mem_nil hmem k l⟩⟩
  case state =>
    have hstatus : State.reset.status = Status.reset := rfl
    have hmem : State.reset.mem = [] := rfl
    exact ⟨Status.reset_word, rfl, rfl, State.cap_eq _, rfl, rfl, State.busy_of_status_reset hstatus,
      State.done_of_status_reset hstatus,
      fun k l => ⟨State.written_of_mem_nil hmem k l, State.specified_of_mem_nil hmem k l⟩⟩

end Sys2Proof.Machine
end

section
/-! PROOFS. Little-endian storage (20_memory R53): the bytes under a number that several bytes read as, and so
under a lane. -/

namespace Sys2Proof.Machine.Memory

/-- Byte j of what n bytes read as is the j-th of them. -/
theorem readByte_of_readBytes {m : Memory} {a n v : Nat} (h : readBytes m a n = some v) {j : Nat} (hj : j < n) :
    readByte m (a + j) = some (BitVec.ofNat 8 (v / 256 ^ j)) := by
  induction n generalizing a v j with
  | zero => omega
  | succ n ih =>
    rw [readBytes] at h
    split at h
    case h_2 => contradiction
    case h_1 b r hb hr =>
      obtain rfl : b.toNat + 256 * r = v := Option.some.inj h
      cases j with
      | zero =>
        have hlow : BitVec.ofNat 8 (b.toNat + 256 * r) = b := BitVec.eq_of_toNat_eq (by simp [b.isLt])
        simpa [hlow] using hb
      | succ j =>
        have hrest : (b.toNat + 256 * r) / 256 ^ (j + 1) = r / 256 ^ j := by
          rw [Nat.pow_succ', ← Nat.div_div_eq_div_mul, show (b.toNat + 256 * r) / 256 = r by have := b.isLt; omega]
        rw [hrest, ← ih hr (Nat.lt_of_succ_lt_succ hj), Nat.add_assoc, Nat.add_comm 1]

theorem extractLsb'_ofNat_byte (v : Nat) {j : Nat} (hj : j < 8) :
    (BitVec.ofNat 64 v).extractLsb' (8 * j) 8 = BitVec.ofNat 8 (v / 256 ^ j) := by
  rw [show (256 : Nat) = 2 ^ 8 by rfl, ← Nat.pow_mul]
  ext i hi
  have hij : 8 * j + i < 64 := by omega
  simp only [BitVec.getElem_eq_testBit_toNat, BitVec.extractLsb'_toNat, BitVec.toNat_ofNat, Nat.testBit_mod_two_pow,
    Nat.testBit_shiftRight, Nat.testBit_div_two_pow, hij, decide_true, Bool.true_and, Nat.add_comm i]

theorem readLane_eq_some_iff (m : Memory) (a : Nat) (x : F64) :
    readLane m a = some x ↔ ∀ j, j < 8 → readByte m (a + j) = some (x.extractLsb' (8 * j) 8) := by
  constructor
  · intro h j hj
    obtain ⟨v, hv, rfl⟩ := Option.map_eq_some_iff.1 h
    rw [readByte_of_readBytes hv hj, extractLsb'_ofNat_byte v hj]
  · intro h
    rw [← readLane_writeLane_same m a x]
    exact readLane_congr fun j hj => by rw [h j hj, readByte_writeLane_inside m a x hj]

end Sys2Proof.Machine.Memory

namespace Sys2Proof.Machine

/-- Settles O13: the bytes of a stored lane, the bytes of a lane that reads as x, and the bytes outside a store. -/
theorem storedLaneIsLittleEndian : Obligations.StoredLaneIsLittleEndian := fun m a =>
  ⟨fun x _ hj => Memory.readByte_writeLane_inside m a x hj, Memory.readLane_eq_some_iff m a,
    fun x _ hb => Memory.readByte_writeLane_outside m x hb⟩

end Sys2Proof.Machine
end

section
/-! PROOFS. The host port (20_memory R51): what each register and buffer access answers and stores, case by case. -/

namespace Sys2Proof.Machine

/-! ### Registers -/

theorem State.regValue_of_five_le (s : State) {r : Nat} (h : 5 ≤ r) : s.regValue r = 0 := by
  obtain ⟨r, rfl⟩ := Nat.exists_eq_add_of_le' h
  rfl

theorem State.writeReg_of_busy {s : State} (h : s.busy = true) (r : Nat) (v : Word) : s.writeReg r v = s := if_pos h

theorem State.writeReg_cmd {s : State} (h : s.busy = false) (w : Word) : s.writeReg 0 w = s.accept w := by
  simp [State.writeReg, h]

theorem State.writeReg_len {s : State} (h : s.busy = false) (v : Word) : s.writeReg 1 v = { s with len := v } := by
  simp [State.writeReg, h]

theorem State.writeReg_of_two_le {s : State} (h : s.busy = false) {r : Nat} (hr : 2 ≤ r) (v : Word) :
    s.writeReg r v = s := by
  obtain ⟨r, rfl⟩ := Nat.exists_eq_add_of_le' hr
  simp [State.writeReg, h]

theorem Status.state_bits_word (st : Status) : st.word.extractLsb' 0 2 = st.state.code :=
  BitVec.extractLsb'_append_eq_right

theorem State.state_bits_of_busy {s : State} (h : s.busy = true) : (s.regValue 2).extractLsb' 0 2 = 1 := by
  rw [State.regValue, Status.state_bits_word, s.busy_iff.1 h]
  rfl

theorem State.Inv.rlen_of_busy {s : State} (hinv : s.Inv) (h : s.busy = true) : s.rlen = 0 :=
  hinv.rlenWhenDone.1 (by simp [s.busy_iff.1 h])

/-! ### Buffers -/

theorem State.writeBuf_of_busy {s : State} (h : s.busy = true) (k : Nat) (l : Lane) (x : F64) :
    s.writeBuf k l x = s := by simp [State.writeBuf, h]

theorem State.writeBuf_of_nmax_le (s : State) {k : Nat} (h : Config.nmax ≤ k) (l : Lane) (x : F64) :
    s.writeBuf k l x = s := by simp [State.writeBuf, h]

theorem State.writeBuf_of_lt {s : State} (h : s.busy = false) {k : Nat} (hk : k < Config.nmax) (l : Lane) (x : F64) :
    s.writeBuf k l x = { s with mem := s.mem.writeLane (Memory.offset .src k l) x } := by
  simp [State.writeBuf, h, hk]

theorem State.bufValue_of_nmax_le (s : State) (sp : Space) {k : Nat} (h : Config.nmax ≤ k) (l : Lane) :
    s.bufValue sp k l = 0 := if_pos h

theorem State.bufValue_src (s : State) {k : Nat} (h : k < Config.nmax) (l : Lane) : s.bufValue .src k l = s.src k l :=
  if_neg (Nat.not_le.2 h)

theorem State.bufValue_dst {s : State} (hb : s.busy = false) {k : Nat} (h : k < Config.nmax) (l : Lane) :
    s.bufValue .dst k l = s.dst k l := by simp [State.bufValue, hb, h]

theorem State.noteRead_of_nmax_le (s : State) (sp : Space) {k : Nat} (h : Config.nmax ≤ k) : s.noteRead sp k = s := by
  simp [State.noteRead, h]

theorem State.noteRead_src (s : State) (k : Nat) : s.noteRead .src k = s := by simp [State.noteRead]

theorem State.noteRead_of_not_busy {s : State} (h : s.busy = false) (sp : Space) (k : Nat) : s.noteRead sp k = s := by
  simp [State.noteRead, h]

/-- A read uses up free values at most. -/
theorem State.noteRead_frame (s : State) (sp : Space) (k : Nat) :
    s.noteRead sp k = { s with draw := (s.noteRead sp k).draw } := by
  rw [State.noteRead]
  split <;> rfl

/-! ### The lanes after a store to SRC -/

/-- A lane other than the stored one holds what it held. -/
theorem Memory.readLane_writeLane_other (m : Memory) {sp sp' : Space} {k k' : Nat} {l l' : Lane} (x : F64)
    (h : k < Config.nmax) (h' : k' < Config.nmax) (hne : ¬(sp' = sp ∧ k' = k ∧ l' = l)) :
    (m.writeLane (Memory.offset sp k l) x).readLane (Memory.offset sp' k' l') =
      m.readLane (Memory.offset sp' k' l') :=
  Memory.readLane_writeLane_disjoint m x (Memory.offset_disjoint h' h hne)

theorem laneValue_writeLane_same (seed : Nat) (m : Memory) (sp : Space) (k : Nat) (l : Lane) (x : F64) :
    laneValue seed (m.writeLane (Memory.offset sp k l) x) sp k l = x := by simp [laneValue]

theorem laneValue_writeLane_other (seed : Nat) (m : Memory) {sp sp' : Space} {k k' : Nat} {l l' : Lane} (x : F64)
    (h : k < Config.nmax) (h' : k' < Config.nmax) (hne : ¬(sp' = sp ∧ k' = k ∧ l' = l)) :
    laneValue seed (m.writeLane (Memory.offset sp k l) x) sp' k' l' = laneValue seed m sp' k' l' := by
  rw [laneValue, laneValue, Memory.readLane_writeLane_other m x h h' hne]

/-- A stored lane of SRC reads as its value and has its ghost bit set; no other lane of SRC or DST changes. -/
theorem State.lanes_after_src_store (s : State) {k : Nat} (hk : k < Config.nmax) (l : Lane) (x : F64) :
    let t := { s with mem := s.mem.writeLane (Memory.offset .src k l) x, resp := .written }
    t.src k l = x ∧ t.written k l = true ∧
    (∀ k' l', k' < Config.nmax → ¬(k' = k ∧ l' = l) → t.src k' l' = s.src k' l' ∧ t.written k' l' = s.written k' l') ∧
    (∀ k' l', k' < Config.nmax → t.dst k' l' = s.dst k' l') := by
  refine ⟨laneValue_writeLane_same _ _ _ _ _ _, by simp [State.written], fun k' l' hk' hne => ?_, fun k' l' hk' => ?_⟩
  · have hother : ¬(Space.src = .src ∧ k' = k ∧ l' = l) := fun h => hne h.2
    exact ⟨laneValue_writeLane_other _ _ x hk hk' hother,
      congrArg Option.isSome (Memory.readLane_writeLane_other s.mem x hk hk' hother)⟩
  · exact laneValue_writeLane_other _ _ x hk hk' (by simp)

/-! ### The table of the transactions (20_memory R51) -/

theorem transact_readBuf_of_value {s : State} {sp : Space} {k : Nat} {l : Lane} {x : F64}
    (hnote : s.noteRead sp k = s) (hval : s.bufValue sp k l = x) :
    s.transact (.readBuf sp k l) = { s with resp := .lane x } := by
  rw [State.transact, hnote, hval, State.answer]

/-- Settles O11: each row is the rule of its access, and the store's lanes are `State.lanes_after_src_store`. -/
theorem hostTransactionsFollowTheTable : Obligations.HostTransactionsFollowTheTable := by
  intro s hinv
  refine ⟨fun hb => ⟨?cmd, ?len, ?ignored, ?store, ?load⟩,
    fun hb => ⟨?busyReg, ?busyBuf, ?busyDst, ?busyStatus⟩,
    rfl, rfl, rfl, rfl, rfl, ?high, ?src, ?beyondWrite, ?beyondRead⟩
  case cmd => exact fun w => congrArg (State.answer .written) (State.writeReg_cmd hb w)
  case len => exact fun v => congrArg (State.answer .written) (State.writeReg_len hb v)
  case ignored => exact fun r v hr => congrArg (State.answer .written) (State.writeReg_of_two_le hb hr v)
  case store =>
    intro k l x hk
    rw [State.transact, State.writeBuf_of_lt hb hk]
    obtain ⟨hsame, hwritten, hsrc, hdst⟩ := s.lanes_after_src_store hk l x
    exact ⟨hsame, hwritten, hsrc, hdst, rfl⟩
  case load => exact fun k l hk =>
    transact_readBuf_of_value (State.noteRead_of_not_busy hb .dst k) (State.bufValue_dst hb hk l)
  case busyReg => exact fun r v => congrArg (State.answer .written) (State.writeReg_of_busy hb r v)
  case busyBuf => exact fun k l x => congrArg (State.answer .written) (State.writeBuf_of_busy hb k l x)
  case busyDst => exact fun k l => ⟨s.bufValue .dst k l, congrArg (State.answer _) (s.noteRead_frame .dst k)⟩
  case busyStatus => exact ⟨State.state_bits_of_busy hb, hinv.rlen_of_busy hb⟩
  case high => exact fun r hr => congrArg (fun v => s.answer (.reg v)) (s.regValue_of_five_le hr)
  case src => exact fun k l hk => transact_readBuf_of_value (s.noteRead_src k) (s.bufValue_src hk l)
  case beyondWrite => exact fun k l x hk => congrArg (State.answer .written) (s.writeBuf_of_nmax_le hk l x)
  case beyondRead => exact fun sp k l hk =>
    transact_readBuf_of_value (s.noteRead_of_nmax_le sp hk) (s.bufValue_of_nmax_le sp hk l)

end Sys2Proof.Machine
end

section
/-! PROOFS. The byte map (20_memory R52, R54): the slot at every offset, the accesses that present one, and what the
wrapper does with each slot. -/

namespace Sys2Proof.Machine

/-! ### The slots of the byte map (20_memory R52) -/

theorem base_mod_eight : Config.base % 8 = 0 := by
  rw [Config.base, Memory.nmax_eq]
  omega

theorem slotOf_reg {r : Nat} (h : r ≤ 4) : slotOf (8 * r) = .reg r := by
  rw [slotOf, if_pos (by omega), Nat.mul_div_cancel_left r (by decide)]

theorem offset_in_element_div (k : Nat) (l : Lane) : (16 * k + Memory.laneOffset l) / 16 = k := by
  cases l <;> simp only [Memory.laneOffset] <;> omega

theorem lane_of_offset_in_element (k : Nat) (l : Lane) :
    (if (16 * k + Memory.laneOffset l) % 16 < 8 then Lane.re else Lane.im) = l := by
  cases l <;> simp [Memory.laneOffset]

theorem laneOffset_le (l : Lane) : Memory.laneOffset l ≤ 8 := by cases l <;> decide

theorem slotOf_offset (sp : Space) {k : Nat} (h : k < Config.nmax) (l : Lane) :
    slotOf (Memory.offset sp k l) = .lane sp k l := by
  have hB := Memory.bufBytes_eq
  have hlane := laneOffset_le l
  rw [Memory.nmax_eq] at h
  cases sp with
  | src =>
    rw [slotOf, Memory.offset, Memory.window, if_neg (by omega), if_neg (by omega), if_pos (by omega), Nat.add_assoc,
      Nat.add_sub_cancel_left, offset_in_element_div, lane_of_offset_in_element]
  | dst =>
    rw [slotOf, Memory.offset, Memory.window, if_neg (by omega), if_neg (by omega), if_neg (by omega),
      if_pos (by omega), Nat.add_assoc, Nat.add_sub_cancel_left, offset_in_element_div, lane_of_offset_in_element]

theorem slotOf_reserved {o : Nat} (h : 0x28 ≤ o ∧ o < Config.bufBytes ∨ 3 * Config.bufBytes ≤ o) :
    slotOf o = .reserved := by
  have hB := Memory.bufBytes_eq
  rcases h with h | h
  · rw [slotOf, if_neg (by omega), if_pos h.2]
  · rw [slotOf, if_neg (by omega), if_neg (by omega), if_neg (by omega), if_neg (by omega)]

/-- An access of the wrapper's one shape presents the slot at its offset (20_memory R54). -/
theorem busSlot_base_add {o : Nat} (h8 : o % 8 = 0) (h : o < 4 * Config.bufBytes) :
    busSlot Config.base 8 (Config.base + o) = some (slotOf o) := by
  have hbase := base_mod_eight
  rw [busSlot, if_pos ⟨rfl, by omega, by omega, by omega⟩, Nat.add_sub_cancel_left]

/-- An access of any other shape presents none (20_memory R54). -/
theorem busSlot_eq_none {width addr : Nat} (h : width ≠ 8 ∨ addr % 8 ≠ 0 ∨ addr < Config.base ∨
    Config.base + 4 * Config.bufBytes ≤ addr) : busSlot Config.base width addr = none :=
  if_neg (by omega)

theorem busSlot_reg {r : Nat} (h : r ≤ 4) : busSlot Config.base 8 (Config.base + 8 * r) = some (.reg r) := by
  rw [busSlot_base_add (by omega) (by rw [Memory.bufBytes_eq]; omega), slotOf_reg h]

theorem busSlot_lane (sp : Space) {k : Nat} (h : k < Config.nmax) (l : Lane) :
    busSlot Config.base 8 (Config.base + Memory.window sp + 16 * k + Memory.laneOffset l) = some (.lane sp k l) := by
  have hoff : Memory.offset sp k l % 8 = 0 ∧ Memory.offset sp k l < 4 * Config.bufBytes := by
    rw [Memory.nmax_eq] at h
    cases sp <;> cases l <;> simp only [Memory.offset, Memory.window, Memory.laneOffset, Memory.bufBytes_eq] <;> omega
  rw [← slotOf_offset sp h l, ← busSlot_base_add hoff.1 hoff.2, Memory.offset]
  simp only [Nat.add_assoc]

theorem busSlot_reserved {o : Nat} (h8 : o % 8 = 0) (h : 0x28 ≤ o ∧ o < Config.bufBytes ∨
    3 * Config.bufBytes ≤ o ∧ o < 4 * Config.bufBytes) : busSlot Config.base 8 (Config.base + o) = some .reserved := by
  rw [busSlot_base_add h8 (by omega), slotOf_reserved (h.imp_right And.left)]

/-! ### The wrapper's accesses by their slot -/

section Wrapper

variable {s : State} {width addr : Nat}

theorem transact_busWrite_reg {r : Nat} (h : busSlot Config.base width addr = some (.reg r)) (v : BitVec 64) :
    s.transact (.busWrite width addr v) = s.transact (.writeReg r (v.extractLsb' 0 32)) := by
  simp only [State.transact, State.busWrite, h]

theorem transact_busWrite_src {k : Nat} {l : Lane} (h : busSlot Config.base width addr = some (.lane .src k l))
    (v : BitVec 64) : s.transact (.busWrite width addr v) = s.transact (.writeBuf k l v) := by
  simp only [State.transact, State.busWrite, h]

theorem transact_busWrite_dst {k : Nat} {l : Lane} (h : busSlot Config.base width addr = some (.lane .dst k l))
    (v : BitVec 64) : s.transact (.busWrite width addr v) = s.answer .written := by
  simp only [State.transact, State.busWrite, h]

theorem transact_busWrite_reserved (h : busSlot Config.base width addr = some .reserved) (v : BitVec 64) :
    s.transact (.busWrite width addr v) = s.answer .written := by
  simp only [State.transact, State.busWrite, h]

theorem transact_busWrite_none (h : busSlot Config.base width addr = none) (v : BitVec 64) :
    s.transact (.busWrite width addr v) = s.answer .busError := by
  simp only [State.transact, State.busWrite, h]

theorem transact_busRead_reg {r : Nat} (h : busSlot Config.base width addr = some (.reg r)) :
    s.transact (.busRead width addr) = s.answer (.bus ((s.regValue r).setWidth 64)) := by
  simp only [State.transact, State.busRead, h]

theorem transact_busRead_src {k : Nat} {l : Lane} (h : busSlot Config.base width addr = some (.lane .src k l))
    (hk : k < Config.nmax) : s.transact (.busRead width addr) = s.answer (.bus (s.src k l)) := by
  simp only [State.transact, State.busRead, h, s.noteRead_src, s.bufValue_src hk]

theorem transact_busRead_dst {k : Nat} {l : Lane} (h : busSlot Config.base width addr = some (.lane .dst k l))
    (hk : k < Config.nmax) (hb : s.busy = false) :
    s.transact (.busRead width addr) = s.answer (.bus (s.dst k l)) := by
  simp only [State.transact, State.busRead, h, State.noteRead_of_not_busy hb, State.bufValue_dst hb hk]

theorem transact_busRead_reserved (h : busSlot Config.base width addr = some .reserved) :
    s.transact (.busRead width addr) = s.answer (.bus 0) := by
  simp only [State.transact, State.busRead, h]

theorem transact_busRead_none (h : busSlot Config.base width addr = none) :
    s.transact (.busRead width addr) = s.answer .busError := by
  simp only [State.transact, State.busRead, h]

end Wrapper

theorem base_mod_block : Config.base % (64 * Config.nmax) = 0 := Nat.mul_mod_right _ _

/-- Settles O12: each access by the slot it presents. -/
theorem busAccessShapeAndMap : Obligations.BusAccessShapeAndMap := by
  refine ⟨base_mod_block, fun s => ⟨?reg, ?lane, ?reserved, ?refused⟩⟩
  case reg => exact fun r v hr =>
    ⟨transact_busWrite_reg (busSlot_reg hr) v, transact_busRead_reg (busSlot_reg hr)⟩
  case lane =>
    intro k v hk
    have hre (sp : Space) : busSlot Config.base 8 (Config.base + Memory.window sp + 16 * k) = some (.lane sp k .re) :=
      busSlot_lane sp hk .re
    have him (sp : Space) : busSlot Config.base 8 (Config.base + Memory.window sp + 16 * k + 8) =
        some (.lane sp k .im) := busSlot_lane sp hk .im
    exact ⟨transact_busWrite_src (hre .src) v, transact_busWrite_src (him .src) v,
      transact_busWrite_dst (hre .dst) v, transact_busWrite_dst (him .dst) v,
      transact_busRead_src (hre .src) hk, transact_busRead_src (him .src) hk,
      fun hb => ⟨transact_busRead_dst (hre .dst) hk hb, transact_busRead_dst (him .dst) hk hb⟩⟩
  case reserved =>
    intro o v h8 ho
    exact ⟨transact_busWrite_reserved (busSlot_reserved h8 ho) v, transact_busRead_reserved (busSlot_reserved h8 ho)⟩
  case refused =>
    intro width addr v h
    exact ⟨transact_busWrite_none (busSlot_eq_none h) v, transact_busRead_none (busSlot_eq_none h)⟩

end Sys2Proof.Machine
end

section
/-! PROOFS. The command word as a number (30_encoding R70, R74, R75): its three fields by division and remainder, the
cascade of the decoder on them, and the words that decode to no command. -/

namespace Sys2Proof

theorem fieldsOf_rsv_toNat (w : Word) : (fieldsOf w).rsv.toNat = w.toNat / 32 := by
  have hw : w.toNat < 2 ^ 32 := w.isLt
  rw [fieldsOf, BitVec.extractLsb'_toNat, Nat.shiftRight_eq_div_pow]
  omega

theorem fieldsOf_dir_toNat (w : Word) : (fieldsOf w).dir.toNat = w.toNat / 16 % 2 := by
  rw [fieldsOf, BitVec.extractLsb'_toNat, Nat.shiftRight_eq_div_pow]

theorem fieldsOf_op_toNat (w : Word) : (fieldsOf w).op.toNat = w.toNat % 16 := by
  rw [fieldsOf, BitVec.extractLsb'_toNat, Nat.shiftRight_zero]

theorem fieldsOf_rsv_eq_iff (w : Word) (x : BitVec 27) : (fieldsOf w).rsv = x ↔ w.toNat / 32 = x.toNat := by
  rw [← BitVec.toNat_inj, fieldsOf_rsv_toNat]

theorem fieldsOf_dir_eq_iff (w : Word) (x : BitVec 1) : (fieldsOf w).dir = x ↔ w.toNat / 16 % 2 = x.toNat := by
  rw [← BitVec.toNat_inj, fieldsOf_dir_toNat]

theorem fieldsOf_op_eq_iff (w : Word) (x : BitVec 4) : (fieldsOf w).op = x ↔ w.toNat % 16 = x.toNat := by
  rw [← BitVec.toNat_inj, fieldsOf_op_toNat]

@[simp] theorem Decoded.toOption_ok (i : Instr) : (Decoded.ok i).toOption = some i := rfl

@[simp] theorem Decoded.toOption_illegal (r : Illegal) : (Decoded.illegal r).toOption = none := rfl

theorem Decoded.toOption_eq_none_iff (d : Decoded) : d.toOption = none ↔ ∃ r, d = .illegal r := by
  cases d with
  | ok i => exact iff_of_false nofun nofun
  | illegal r => exact iff_of_true rfl ⟨r, rfl⟩

/-- Settles O2: the decoder's tests are the cascade's, read on the fields as numbers; its last test tells two reasons
apart that both decode to no command. -/
theorem decodeFollowsTheSpecCascade : Obligations.DecodeFollowsTheSpecCascade := by
  intro w
  rw [decode, decodeFields]
  simp only [ne_eq, fieldsOf_rsv_eq_iff, fieldsOf_dir_eq_iff, fieldsOf_op_eq_iff, BitVec.reduceToNat]
  simp only [apply_ite Decoded.toOption, Decoded.toOption_ok, Decoded.toOption_illegal, ite_self]

theorem decode_toOption_eq_none_iff (w : Word) :
    (decode w).toOption = none ↔
      w.toNat / 32 ≠ 0 ∨ w.toNat % 16 = 0 ∨ 5 ≤ w.toNat % 16 ∨ (w.toNat / 16 % 2 = 1 ∧ w.toNat % 16 ≠ 1) := by
  rw [decodeFollowsTheSpecCascade w]
  split_ifs with hrsv hfft hfwd hdir hfht hmag hphase
  · exact iff_of_true rfl (.inl hrsv)
  · exact iff_of_false nofun (by omega)
  · exact iff_of_false nofun (by omega)
  · exact iff_of_true rfl (.inr (.inr (.inr ⟨hdir, hfft⟩)))
  · exact iff_of_false nofun (by omega)
  · exact iff_of_false nofun (by omega)
  · exact iff_of_false nofun (by omega)
  · exact iff_of_true rfl (by omega)

end Sys2Proof
end

section
/-! PROOFS. Acceptance of a word and the refusal of an illegal one (30_encoding R74, R80, R81; 60_exceptions R173,
R178). -/

namespace Sys2Proof.Machine

/-- Acceptance and refusal together leave the frame of a refused word. -/
theorem refusedFrame_refuse_accept (w : Word) (k : ErrorKind) (s : State) :
    s.refusedFrame w k ((s.accept w).refuse k) := by
  constructor <;> rfl

theorem turn_accept (w : Word) (s : State) : (s.accept w).turn = (s.accept w).validateTurn := rfl

theorem validateTurn_refused {w : Word} {s : State} {k : ErrorKind} (hcmd : s.cmd = some w)
    (hk : validate (decode w) s.nAct.toNat = some k) : s.validateTurn = s.refuse k := by
  simp [State.validateTurn, hcmd, hk]

theorem issue_illegal {w : Word} {s : State} {r : Illegal} (hw : decode w = .illegal r) (hb : s.busy = false) :
    issue w s = .next ((s.accept w).refuse .illegalCommand) := by
  simp [issue, hw, runIllegal, hb]

theorem turn_accept_illegal {w : Word} {r : Illegal} (hw : decode w = .illegal r) (s : State) :
    (s.accept w).turn = (s.accept w).refuse .illegalCommand := by
  rw [turn_accept]
  exact validateTurn_refused (s.accept_cmd w) (by rw [hw]; rfl)

/-- Settles O6: the one step and the turn after acceptance end in the same refused state. -/
theorem illegalWordsAreRefused : Obligations.IllegalWordsAreRefused := by
  refine fun w => ⟨decode_toOption_eq_none_iff w, fun s hnone hb => ?_⟩
  obtain ⟨r, hw⟩ := (Decoded.toOption_eq_none_iff _).1 hnone
  refine ⟨(s.accept w).refuse .illegalCommand, issue_illegal hw hb, refusedFrame_refuse_accept w _ s, ?_⟩
  rw [State.writeReg_cmd hb, turn_accept_illegal hw]

theorem directionOf_fieldsOf_dir (w : Word) :
    directionOf (fieldsOf w).dir = if w.toNat / 16 % 2 = 0 then .forward else .inverse := by
  simp only [directionOf, fieldsOf_dir_eq_iff, BitVec.reduceToNat]

/-- Settles O5: the write is the word's acceptance, and a BUSY core ignores both kinds of write. -/
theorem acceptanceWrites : Obligations.AcceptanceWrites := by
  intro w s hb
  rw [State.writeReg_cmd hb]
  exact ⟨rfl, rfl, rfl, rfl, rfl, rfl, directionOf_fieldsOf_dir w, rfl, rfl, rfl, rfl, rfl, rfl, rfl, rfl,
    fun u hu => ⟨u.writeReg_of_busy hu, u.writeBuf_of_busy hu⟩⟩

end Sys2Proof.Machine
end

section
/-! PROOFS. The index map rev_m of the bit reversal (40_bit_reverse R90, R91): its binary digits, from which the rest
follows. -/

namespace Sys2Proof.Machine

theorem rev_succ (m i : Nat) : rev (m + 1) i = i % 2 * 2 ^ m + rev m (i / 2) := rfl

theorem rev_lt (m i : Nat) : rev m i < 2 ^ m := by
  induction m generalizing i with
  | zero => exact one_pos
  | succ m ih =>
    have hrest := ih (i / 2)
    have hdigit : i % 2 * 2 ^ m ≤ 1 * 2 ^ m := Nat.mul_le_mul_right _ (by omega)
    rw [rev_succ, Nat.pow_succ]
    omega

/-- The digits of rev_m(i), for every i and every place. -/
theorem testBit_rev (m i b : Nat) : (rev m i).testBit b = (decide (b < m) && i.testBit (m - 1 - b)) := by
  induction m generalizing i with
  | zero => simp [rev]
  | succ m ih =>
    rw [rev_succ, Nat.mul_comm, Nat.testBit_two_pow_mul_add _ (rev_lt m _)]
    rcases lt_trichotomy b m with hlt | rfl | hgt
    · rw [if_pos hlt, ih, Nat.testBit_div_two, show m + 1 - 1 - b = m - 1 - b + 1 by omega]
      simp [hlt, Nat.lt_succ_of_lt hlt]
    · simp
    · have htop : (i % 2).testBit (b - m) = false :=
        Nat.testBit_lt_two_pow ((Nat.mod_lt i two_pos).trans_le (Nat.le_self_pow (by omega) 2))
      simp [htop, show ¬ b < m by omega, show ¬ b < m + 1 by omega]

theorem testBit_rev_of_lt {m b : Nat} (h : b < m) (i : Nat) : (rev m i).testBit b = i.testBit (m - 1 - b) := by
  simp [testBit_rev, h]

/-- Digit by digit is enough below 2^m. -/
theorem eq_rev_iff {m x : Nat} (hx : x < 2 ^ m) (i : Nat) :
    rev m i = x ↔ ∀ b, b < m → x.testBit b = i.testBit (m - 1 - b) := by
  constructor
  · rintro rfl b hb
    exact testBit_rev_of_lt hb i
  · intro h
    refine Nat.eq_of_testBit_eq fun b => ?_
    rcases lt_or_ge b m with hb | hb
    · rw [testBit_rev_of_lt hb, h b hb]
    · have hpow : 2 ^ m ≤ 2 ^ b := Nat.pow_le_pow_right two_pos hb
      rw [Nat.testBit_lt_two_pow ((rev_lt m i).trans_le hpow), Nat.testBit_lt_two_pow (hx.trans_le hpow)]

theorem rev_rev {m i : Nat} (h : i < 2 ^ m) : rev m (rev m i) = i := by
  refine (eq_rev_iff h _).2 fun b hb => ?_
  rw [testBit_rev_of_lt (by omega), show m - 1 - (m - 1 - b) = b by omega]

@[simp] theorem rev_zero (m : Nat) : rev m 0 = 0 := (eq_rev_iff (by positivity) 0).2 (by simp)

theorem rev_last (m : Nat) : rev m (2 ^ m - 1) = 2 ^ m - 1 := by
  refine (eq_rev_iff (Nat.sub_lt (by positivity) one_pos) _).2 fun b hb => ?_
  simp [Nat.testBit_two_pow_sub_one, hb, show m - 1 - b < m by omega]

/-- The lowest digit decides in which half the image lies. -/
theorem even_iff_rev_lt_half (m i : Nat) : i % 2 = 0 ↔ rev (m + 1) i < 2 ^ m := by
  have hrest := rev_lt m (i / 2)
  rw [rev_succ]
  rcases Nat.mod_two_eq_zero_or_one i with h | h <;> rw [h] <;> omega

theorem rev_add_half {m i : Nat} (h : i < 2 ^ m) : rev (m + 1) (i + 2 ^ m) = rev (m + 1) i + 1 := by
  induction m generalizing i with
  | zero =>
    obtain rfl : i = 0 := by omega
    decide
  | succ m ih =>
    rw [Nat.pow_succ] at h ⊢
    have hmod : (i + 2 ^ m * 2) % 2 = i % 2 := Nat.add_mul_mod_self_right ..
    have hdiv : (i + 2 ^ m * 2) / 2 = i / 2 + 2 ^ m := Nat.add_mul_div_right _ _ two_pos
    rw [rev_succ, hmod, hdiv, ih (by omega), rev_succ (m + 1) i, Nat.add_assoc]

/-- Settles O34: each property is its lemma on the digits, and the tables are computed. -/
theorem bitReversalMapProperties : Obligations.BitReversalMapProperties := by
  refine ⟨?digits, ?map, fun m _ => ⟨rev_zero m, rev_last m, fun j hj => ⟨rev m j, rev_lt m j, rev_rev hj⟩⟩,
    fun m i _ _ => rev_succ m i, by decide, by decide, by decide, by decide, by decide⟩
  case digits =>
    intro m i b _ hb
    rw [testBit_rev_of_lt (by omega), show m - 1 - (m - 1 - b) = b by omega]
  case map =>
    intro m i hm hi
    obtain ⟨m, rfl⟩ := Nat.exists_eq_add_of_le' hm
    exact ⟨rev_lt _ i, rev_rev hi, eq_rev_iff hi i, even_iff_rev_lt_half m i, rev_add_half⟩

end Sys2Proof.Machine
end

section
/-! PROOFS. The copy from SRC to DST and the bit-reversal permutation (40_bit_reverse R92, R93): the lanes of DST over any
environment in which stores are read back, and on the buffers also what neither procedure touches. -/

namespace Sys2Proof.Machine

variable {M F : Type}

/-! ### Environments in which stores are read back -/

/-- In the first n elements, a store to DST changes the stored lane of DST alone. -/
structure Env.ReadsStores (e : Env M F) (n : Nat) : Prop where
  dst_put : ∀ (m : M) {k k' : Nat} (l l' : Lane) (x : F), k < n → k' < n →
    e.dst (e.put m k l x) k' l' = if k' = k ∧ l' = l then x else e.dst m k' l'
  src_put : ∀ (m : M) {k k' : Nat} (l l' : Lane) (x : F), k < n → k' < n →
    e.src (e.put m k l x) k' l' = e.src m k' l'

theorem bufferEnv_readsStores (num : Num F64) (srcSeed dstSeed : Nat) :
    (bufferEnv num srcSeed dstSeed).ReadsStores Config.nmax :=
  ⟨dst_put num srcSeed dstSeed, src_put num srcSeed dstSeed⟩

/-- A lane of the pair (re, im). -/
def laneOf (re im : F) : Lane → F
  | .re => re
  | .im => im

theorem laneOf_eta (f : Lane → F) (l : Lane) : laneOf (f .re) (f .im) l = f l := by cases l <;> rfl

/-- What BRP.COPYIN writes to a lane of DST[k]: SRC[k], the imaginary lane +0 in the real form. -/
def copiedLane (e : Env M F) (real : Bool) (m : M) (k : Nat) : Lane → F :=
  laneOf (e.src m k .re) (if real then e.num.zero else e.src m k .im)

theorem copyElem_mem (e : Env M F) (real : Bool) (k : Nat) (w : Work M F) :
    (copyElem e real k w).mem =
      (w.put e k (copiedLane e real w.mem k .re) (copiedLane e real w.mem k .im)).mem := rfl

/-- BRP.COPYIN from m after its iterations below t: these elements of DST are copied, and SRC is as in m. -/
structure CopiedUpTo (e : Env M F) (real : Bool) (n : Nat) (m : M) (t : Nat) (v : Work M F) : Prop where
  dst : ∀ k l, k < t → e.dst v.mem k l = copiedLane e real m k l
  src : ∀ k l, k < n → e.src v.mem k l = e.src m k l

/-- Where the visits of BRP.PERMUTE below t have taken the value of DST[k] from: they have swapped the pairs whose lesser
index is below t, and no other. -/
def permutedUpTo (m t k : Nat) : Nat := if k < t ∨ rev m k < t then rev m k else k

/-- Where the visit of t alone takes the value of DST[k] from. -/
def visitedIndex (m t k : Nat) : Nat := if t < rev m t then Equiv.swap (rev m t) t k else k

theorem visitedIndex_lt {m t k n : Nat} (ht : t < n) (hrev : rev m t < n) (hk : k < n) : visitedIndex m t k < n := by
  rw [visitedIndex, Equiv.swap_apply_def]
  split_ifs <;> assumption

theorem permutedUpTo_zero (m k : Nat) : permutedUpTo m 0 k = k := by simp [permutedUpTo]

theorem permutedUpTo_of_lt {m t k : Nat} (h : k < t) : permutedUpTo m t k = rev m k := if_pos (.inl h)

theorem permutedUpTo_of_le {m t k : Nat} (h : t ≤ k) (hrev : t ≤ rev m k) : permutedUpTo m t k = k :=
  if_neg (by omega)

theorem permutedUpTo_of_rev_lt {m t k : Nat} (h : rev m k < t) : permutedUpTo m t k = rev m k := if_pos (.inr h)

/-- A visit leaves every pair but that of t. -/
theorem permutedUpTo_succ_of_ne {m t k : Nat} (h : k ≠ t) (hrev : rev m k ≠ t) :
    permutedUpTo m (t + 1) k = permutedUpTo m t k := by
  simp only [permutedUpTo, Nat.lt_succ_iff_lt_or_eq, h, hrev, or_false]

/-- The visit of t swaps its pair when t is the lesser index; otherwise the pair is swapped already, or is one element. -/
theorem permutedUpTo_visitedIndex {m t k : Nat} (ht : t < 2 ^ m) (hk : k < 2 ^ m) :
    permutedUpTo m t (visitedIndex m t k) = permutedUpTo m (t + 1) k := by
  have hinv : rev m (rev m t) = t := rev_rev ht
  by_cases hkt : k = t
  · subst hkt
    rw [permutedUpTo_of_lt (Nat.lt_succ_self k), visitedIndex]
    split
    next hlt => rw [Equiv.swap_apply_right, permutedUpTo_of_le hlt.le hinv.ge]
    next hge =>
      rcases (Nat.le_of_not_lt hge).lt_or_eq with hlt | heq
      · exact permutedUpTo_of_rev_lt hlt
      · rw [permutedUpTo_of_le le_rfl heq.ge, heq]
  by_cases hkr : rev m k = t
  · obtain rfl : k = rev m t := by rw [← hkr, rev_rev hk]
    rw [permutedUpTo_of_rev_lt (hkr.trans_lt (Nat.lt_succ_self t)), visitedIndex]
    split
    next hlt => rw [Equiv.swap_apply_left, permutedUpTo_of_le le_rfl hlt.le, hinv]
    next hge => exact permutedUpTo_of_lt (by omega)
  · have hne : k ≠ rev m t := by rintro rfl; exact hkr hinv
    rw [permutedUpTo_succ_of_ne hkt hkr, visitedIndex, Equiv.swap_apply_of_ne_of_ne hne hkt, ite_self]

section Lanes

variable {e : Env M F} {n : Nat} (he : e.ReadsStores n)
include he

theorem dst_put_pair {k k' : Nat} (hk : k < n) (hk' : k' < n) (re im : F) (l : Lane) (w : Work M F) :
    e.dst (w.put e k re im).mem k' l = if k' = k then laneOf re im l else e.dst w.mem k' l := by
  rw [Work.put_mem, he.dst_put _ _ _ _ hk hk', he.dst_put _ _ _ _ hk hk']
  cases l <;> simp [laneOf]

theorem src_put_pair {k k' : Nat} (hk : k < n) (hk' : k' < n) (re im : F) (l : Lane) (w : Work M F) :
    e.src (w.put e k re im).mem k' l = e.src w.mem k' l := by
  rw [Work.put_mem, he.src_put _ _ _ _ hk hk', he.src_put _ _ _ _ hk hk']

theorem copyElem_copiedUpTo {real : Bool} {m : M} {t : Nat} {v : Work M F} (ht : t < n)
    (h : CopiedUpTo e real n m t v) : CopiedUpTo e real n m (t + 1) (copyElem e real t v) where
  src k l hk := by rw [copyElem_mem, src_put_pair he ht hk, h.src k l hk]
  dst k l hk := by
    rw [copyElem_mem, dst_put_pair he ht (by omega), laneOf_eta]
    split
    next heq => rw [heq, copiedLane, h.src t .re ht, h.src t .im ht, copiedLane]
    next hne => exact h.dst k l (by omega)

theorem copyIn_copiedUpTo (real : Bool) {count : Nat} (hcount : count ≤ n) (w : Work M F) :
    CopiedUpTo e real n w.mem count (copyIn e real count w) := by
  refine forStride_induction count ⟨fun k _ hk => absurd hk (Nat.not_lt_zero k), fun _ _ _ => rfl⟩ fun t v ht h => ?_
  rw [Nat.zero_add, Nat.mul_one]
  exact copyElem_copiedUpTo he (ht.trans_le hcount) h

theorem dst_swap {i j k : Nat} (hi : i < n) (hj : j < n) (hk : k < n) (l : Lane) (w : Work M F) :
    e.dst (swap e i j w).mem k l = e.dst w.mem (Equiv.swap j i k) l := by
  rw [swap, dst_put_pair he hj hk, dst_put_pair he hi hk, laneOf_eta (e.dst w.mem i), laneOf_eta (e.dst w.mem j),
    Equiv.swap_apply_def]
  split_ifs <;> rfl

theorem dst_revVisit {m t k : Nat} (ht : t < n) (hrev : rev m t < n) (hk : k < n) (l : Lane) (w : Work M F) :
    e.dst (revVisit e m t w).mem k l = e.dst w.mem (visitedIndex m t k) l := by
  simp only [revVisit, visitedIndex]
  split
  · exact dst_swap he ht hrev hk l w
  · rfl

/-- BRP.PERMUTE takes the value of DST[k] from DST[rev_m(k)]. -/
theorem dst_permute {m k : Nat} (hm : 2 ^ m ≤ n) (hk : k < 2 ^ m) (l : Lane) (w : Work M F) :
    e.dst (permute e (2 ^ m) w).mem k l = e.dst w.mem (rev m k) l := by
  have hvisits : ∀ k l, k < 2 ^ m →
      e.dst (permute e (2 ^ m) w).mem k l = e.dst w.mem (permutedUpTo m (2 ^ m) k) l := by
    rw [permute, Nat.log2_two_pow]
    refine forStride_induction
      (P := fun t (v : Work M F) => ∀ k l, k < 2 ^ m → e.dst v.mem k l = e.dst w.mem (permutedUpTo m t k) l)
      (2 ^ m) (fun k _ _ => by rw [permutedUpTo_zero]) fun t v ht h k l hk => ?_
    have hrev := rev_lt m t
    rw [Nat.zero_add, Nat.mul_one, dst_revVisit he (ht.trans_le hm) (hrev.trans_le hm) (hk.trans_le hm),
      h _ _ (visitedIndex_lt ht hrev hk), permutedUpTo_visitedIndex ht hk]
  rw [hvisits k l hk, permutedUpTo_of_lt hk]

/-- BRP on the first 2^m elements leaves in DST[k] the copy of SRC[rev_m(k)]. -/
theorem dst_permute_copyIn (real : Bool) {m k : Nat} (hm : 2 ^ m ≤ n) (hk : k < 2 ^ m) (l : Lane) (w : Work M F) :
    e.dst (permute e (2 ^ m) (copyIn e real (2 ^ m) w)).mem k l = copiedLane e real w.mem (rev m k) l := by
  rw [dst_permute he hm hk, (copyIn_copiedUpTo he real hm w).dst _ l (rev_lt m k)]

end Lanes

/-! ### What BRP leaves on the buffers -/

theorem Memory.sameOutsideDst.refl (m : Memory) : m.sameOutsideDst m := fun _ _ => rfl

theorem Memory.sameOutsideDst.trans {m m' m'' : Memory} (h : m.sameOutsideDst m') (h' : m'.sameOutsideDst m'') :
    m.sameOutsideDst m'' := fun a ha => (h' a ha).trans (h a ha)

/-- SRC lies outside DST. -/
theorem Memory.sameOutsideDst.src_eq {m m' : Memory} (h : m.sameOutsideDst m') (seed : Nat) {k : Nat}
    (hk : k < Config.nmax) (l : Lane) : laneValue seed m' .src k l = laneValue seed m .src k l := by
  rw [laneValue, laneValue, Memory.readLane_congr fun j hj => h _ (Memory.src_not_in_dst l hk hj)]

/-- Every byte outside DST's window and the index of the next free value are the same in two working data. -/
structure Work.SameOutsideDst (w v : Work Memory F64) : Prop where
  mem  : w.mem.sameOutsideDst v.mem
  draw : v.draw = w.draw

theorem Work.SameOutsideDst.refl (w : Work Memory F64) : w.SameOutsideDst w := ⟨.refl _, rfl⟩

theorem Work.SameOutsideDst.trans {w v u : Work Memory F64} (h : w.SameOutsideDst v) (h' : v.SameOutsideDst u) :
    w.SameOutsideDst u := ⟨h.mem.trans h'.mem, h'.draw.trans h.draw⟩

theorem Work.SameOutsideDst.withRegs {w v : Work Memory F64} (h : w.SameOutsideDst v) (r : Regs F64) :
    w.SameOutsideDst { v with regs := r } := ⟨h.mem, h.draw⟩

/-- A loop keeps what each of its iterations keeps. -/
theorem forStride_sameOutsideDst {stride count i : Nat} {body : Nat → Work Memory F64 → Work Memory F64}
    (h : ∀ t (v : Work Memory F64), t < count → v.SameOutsideDst (body (i + t * stride) v)) (w : Work Memory F64) :
    w.SameOutsideDst (forStride stride body count i w) :=
  forStride_induction (P := fun _ => w.SameOutsideDst) count (.refl w) fun t v ht hv => hv.trans (h t v ht)

section Frame

variable (num : Num F64) (srcSeed dstSeed : Nat)

theorem put_sameOutsideDst {k : Nat} (hk : k < Config.nmax) (re im : F64) (w : Work Memory F64) :
    w.SameOutsideDst (w.put (bufferEnv num srcSeed dstSeed) k re im) where
  mem a ha := by
    rw [Work.put_mem, readByte_put_outside_dst _ _ _ _ _ _ hk ha, readByte_put_outside_dst _ _ _ _ _ _ hk ha]
  draw := rfl

theorem copyElem_sameOutsideDst (real : Bool) {k : Nat} (hk : k < Config.nmax) (w : Work Memory F64) :
    w.SameOutsideDst (copyElem (bufferEnv num srcSeed dstSeed) real k w) := by
  rw [copyElem]
  exact (put_sameOutsideDst num srcSeed dstSeed hk _ _ w).withRegs _

theorem swap_sameOutsideDst {i j : Nat} (hi : i < Config.nmax) (hj : j < Config.nmax) (w : Work Memory F64) :
    w.SameOutsideDst (swap (bufferEnv num srcSeed dstSeed) i j w) := by
  rw [swap]
  exact (put_sameOutsideDst num srcSeed dstSeed hi _ _ w).trans (put_sameOutsideDst num srcSeed dstSeed hj _ _ _)

theorem revVisit_sameOutsideDst {m i : Nat} (hi : i < Config.nmax) (hrev : rev m i < Config.nmax)
    (w : Work Memory F64) : w.SameOutsideDst (revVisit (bufferEnv num srcSeed dstSeed) m i w) := by
  refine Work.SameOutsideDst.withRegs ?_ _
  split
  · exact swap_sameOutsideDst num srcSeed dstSeed hi hrev w
  · exact .refl w

theorem copyIn_sameOutsideDst (real : Bool) {n : Nat} (hn : n ≤ Config.nmax) (w : Work Memory F64) :
    w.SameOutsideDst (copyIn (bufferEnv num srcSeed dstSeed) real n w) := by
  rw [copyIn]
  exact forStride_sameOutsideDst (fun _ v ht => copyElem_sameOutsideDst num srcSeed dstSeed real (by omega) v) w

theorem permute_sameOutsideDst {m : Nat} (hm : 2 ^ m ≤ Config.nmax) (w : Work Memory F64) :
    w.SameOutsideDst (permute (bufferEnv num srcSeed dstSeed) (2 ^ m) w) := by
  rw [permute, Nat.log2_two_pow]
  exact forStride_sameOutsideDst (fun _ v ht =>
    revVisit_sameOutsideDst num srcSeed dstSeed (by omega) ((rev_lt m _).trans_le hm) v) w

end Frame

/-- Settles O35: DST[k] holds the copy of SRC[rev_m(k)], which at k = rev_m(i) is SRC[i]; neither loop changes anything
outside DST, where SRC lies. -/
theorem bitReversalOutcome : Obligations.BitReversalOutcome := by
  intro m real srcSeed dstSeed w _ hcap e t
  have hm : 2 ^ m ≤ Config.nmax := Nat.pow_le_pow_right two_pos hcap
  have hdst : ∀ k l, k < 2 ^ m → e.dst t.mem k l = copiedLane e real w.mem (rev m k) l := fun k l hk =>
    dst_permute_copyIn (bufferEnv_readsStores coreNum srcSeed dstSeed) real hm hk l w
  have hkept : w.SameOutsideDst t :=
    (copyIn_sameOutsideDst coreNum srcSeed dstSeed real hm w).trans (permute_sameOutsideDst coreNum srcSeed dstSeed hm _)
  refine ⟨fun i hi => ?lanes, fun k l hk => hkept.mem.src_eq srcSeed hk l, hkept.mem, hkept.draw⟩
  case lanes =>
    have hback : ∀ l, e.dst t.mem (rev m i) l = copiedLane e real w.mem i l := fun l => by
      rw [hdst _ l (rev_lt m i), rev_rev hi]
    exact ⟨hback .re, hback .im, hdst i .re hi, hdst i .im hi⟩

end Sys2Proof.Machine
end

section
/-! PROOFS. The operations of F under a change of sign, up to the bits of a NaN and the sign of a zero (00_scope R7,
R9). -/

namespace Sys2Proof.Machine.Float64

/-! ### The sign flip -/

theorem isNaN_congr {a b : F64} (h : mag a = mag b) : isNaN a = isNaN b := by rw [isNaN, isNaN, h]

theorem isInf_congr {a b : F64} (h : mag a = mag b) : isInf a = isInf b := by rw [isInf, isInf, h]

theorem isZero_congr {a b : F64} (h : mag a = mag b) : isZero a = isZero b := by rw [isZero, isZero, h]

theorem significand_congr {a b : F64} (h : mag a = mag b) : significand a = significand b := by
  rw [significand, significand, h]

theorem scale_congr {a b : F64} (h : mag a = mag b) : scale a = scale b := by rw [scale, scale, h]

@[simp] theorem isNaN_neg (a : F64) : isNaN (neg a) = isNaN a := isNaN_congr (mag_neg a)

@[simp] theorem isInf_neg (a : F64) : isInf (neg a) = isInf a := isInf_congr (mag_neg a)

@[simp] theorem isZero_neg (a : F64) : isZero (neg a) = isZero a := isZero_congr (mag_neg a)

theorem abs_neg_eq (a : F64) : abs (neg a) = abs a := by rw [abs, mag_neg, abs]

theorem significand_neg (a : F64) : significand (neg a) = significand a := significand_congr (mag_neg a)

theorem neg_ofParts (s : Bool) {m : Nat} (h : m < 2 ^ 63) : neg (ofParts s m) = ofParts (!s) m := by
  rw [neg, sign_ofParts s h, mag_ofParts s h]

theorem neg_round (s : Bool) (m : Nat) (e : Int) : neg (round s m e) = round (!s) m e := neg_ofParts s (roundMag_lt m e)

@[simp] protected theorem neg_neg (a : F64) : neg (neg a) = a := eq_of_sign_mag (by simp) (by simp)

theorem signed_not (s : Bool) (x : F64) : signed (!s) x = neg (signed s x) := by cases s <;> simp [signed]

/-! ### NaNs and zeros -/

theorem isNaN_nanOf (bits : F64) : isNaN (nanOf bits) = true := by
  rw [nanOf, isNaN, mag_ofParts _ (by unfold infMag; split <;> omega)]
  exact decide_eq_true (by split <;> omega)

theorem not_isInf_of_isZero {a : F64} (h : isZero a = true) : isInf a = false :=
  decide_eq_false (by rw [mag_of_isZero h]; decide)

theorem not_isInf_of_isNaN {a : F64} (h : isNaN a = true) : isInf a = false :=
  decide_eq_false (of_decide_eq_true h).ne'

theorem not_isZero_of_isNaN {a : F64} (h : isNaN a = true) : isZero a = false :=
  decide_eq_false (Nat.ne_of_gt (Nat.zero_lt_of_lt (of_decide_eq_true h)))

theorem isZero_ofParts_zero (s : Bool) : isZero (ofParts s 0) = true := by cases s <;> decide

theorem significand_of_isZero {a : F64} (h : isZero a = true) : significand a = 0 :=
  (significand_eq_zero_iff a).2 (mag_of_isZero h)

theorem signedSignificand_of_isZero {a : F64} (h : isZero a = true) : signedSignificand a = 0 := by
  simp [signedSignificand, significand_of_isZero h]

theorem scale_of_isZero {a : F64} (h : isZero a = true) : scale a = 0 := by simp [scale, mag_of_isZero h]

theorem isNaN_sin (raw : F64 → F64) {a : F64} (h : isNaN a = true) : isNaN (sin raw a) = true := by
  have habs : isNaN (abs a) = true := by rw [isNaN, abs, mag_ofParts _ (mag_lt a)]; exact h
  rw [sin, sinOfAbs, if_pos habs]
  cases sign a
  · exact isNaN_nanOf _
  · exact (isNaN_neg _).trans (isNaN_nanOf _)

/-! ### One value -/

theorem SameValue.refl (a : F64) : SameValue a a := .inl rfl

theorem sameValue_nan_neg (d d' : Nat) : SameValue (nan d) (neg (nan d')) :=
  .inr ⟨isNaN_nan d, (isNaN_neg _).trans (isNaN_nan d')⟩

/-- Division of an opposite dividend gives an opposite quotient. -/
theorem SameValue.div_neg {a a' : F64} (h : SameValue a' (neg a)) (d d' : Nat) (b : F64) :
    SameValue (div d' a' b) (neg (div d a b)) := by
  have hnan : ∀ {x : F64} (k : Nat), isNaN x = true → isNaN (div k x b) = true := fun k hx => by
    simp [div, hx, isNaN_nan]
  rcases h with rfl | ⟨ha', ha⟩
  case inr => exact .inr ⟨hnan d' ha', (isNaN_neg _).trans (hnan d ((isNaN_neg a).symm.trans ha))⟩
  case inl =>
    simp only [div, isNaN_neg, isInf_neg, isZero_neg, significand_neg, scale_neg, sign_neg, Bool.not_bne]
    split_ifs
    · exact sameValue_nan_neg d' d
    · exact sameValue_nan_neg d' d
    · exact .inl (neg_ofParts _ infMag_lt).symm
    · exact .inl (neg_ofParts _ (by decide)).symm
    · exact sameValue_nan_neg d' d
    · exact .inl (neg_ofParts _ infMag_lt).symm
    · exact .inl (neg_round _ _ _).symm

/-- SIN of an opposite argument is opposite (NUM.odd). -/
theorem SameValue.sin_neg {a a' : F64} (h : SameValue a' (neg a)) (raw : F64 → F64) :
    SameValue (sin raw a') (neg (sin raw a)) := by
  rcases h with rfl | ⟨ha', ha⟩
  · exact .inl (by rw [sin, sign_neg, abs_neg_eq, signed_not, sin])
  · exact .inr ⟨isNaN_sin raw ha', (isNaN_neg _).trans (isNaN_sin raw ((isNaN_neg a).symm.trans ha))⟩

/-! ### One number -/

theorem sameNumber_nan (d d' : Nat) : SameNumber (nan d) (nan d') := .inl (sameValue_nan d d')

theorem SameNumber.refl (a : F64) : SameNumber a a := .inl (.refl a)

namespace SameNumber

variable {a a' b b' : F64}

theorem mag_eq_or_isNaN (h : SameNumber a a') : mag a = mag a' ∨ (isNaN a = true ∧ isNaN a' = true) := by
  rcases h with (rfl | hn) | ⟨ha, ha'⟩
  · exact .inl rfl
  · exact .inr hn
  · exact .inl ((mag_of_isZero ha).trans (mag_of_isZero ha').symm)

theorem isNaN_eq (h : SameNumber a a') : isNaN a = isNaN a' := by
  rcases h.mag_eq_or_isNaN with hm | ⟨ha, ha'⟩
  · exact isNaN_congr hm
  · rw [ha, ha']

theorem isInf_eq (h : SameNumber a a') : isInf a = isInf a' := by
  rcases h.mag_eq_or_isNaN with hm | ⟨ha, ha'⟩
  · exact isInf_congr hm
  · rw [not_isInf_of_isNaN ha, not_isInf_of_isNaN ha']

theorem isZero_eq (h : SameNumber a a') : isZero a = isZero a' := by
  rcases h.mag_eq_or_isNaN with hm | ⟨ha, ha'⟩
  · exact isZero_congr hm
  · rw [not_isZero_of_isNaN ha, not_isZero_of_isNaN ha']

theorem eq_or_isZero (h : SameNumber a a') (hn : isNaN a' = false) :
    a = a' ∨ (isZero a = true ∧ isZero a' = true) := by
  rcases h with (heq | ⟨-, ha'⟩) | hz
  · exact .inl heq
  · simp [hn] at ha'
  · exact .inr hz

theorem trans {c : F64} (h : SameNumber a b) (h' : SameNumber b c) : SameNumber a c := by
  cases hn : isNaN c
  · obtain rfl | ⟨hb, hc⟩ := h'.eq_or_isZero hn
    · exact h
    · obtain rfl | ⟨ha, -⟩ := h.eq_or_isZero (h'.isNaN_eq.trans hn)
      · exact h'
      · exact .inr ⟨ha, hc⟩
  · exact .inl (.inr ⟨(h.isNaN_eq.trans h'.isNaN_eq).trans hn, hn⟩)

theorem neg (h : SameNumber a a') : SameNumber (neg a) (neg a') := by
  rcases h with (rfl | ⟨ha, ha'⟩) | ⟨ha, ha'⟩
  · exact .refl _
  · exact .inl (.inr ⟨by simp [ha], by simp [ha']⟩)
  · exact .inr ⟨by simp [ha], by simp [ha']⟩

theorem eq_of_isZero_eq_false (h : SameNumber a a') (hn : isNaN a' = false) (hz : isZero a' = false) : a = a' :=
  (h.eq_or_isZero hn).resolve_right fun h0 => by simp [hz] at h0

theorem eq_of_isInf (h : SameNumber a a') (hi : isInf a' = true) : a = a' :=
  h.eq_of_isZero_eq_false (not_isNaN_of_isInf hi)
    (Bool.eq_false_iff.2 fun hz => by simp [not_isInf_of_isZero hz] at hi)

end SameNumber

/-! ### Sums -/

theorem signedSignificand_eq_of_sameNumber {a a' : F64} (h : SameNumber a a') (hn : isNaN a' = false) :
    signedSignificand a = signedSignificand a' ∧ scale a = scale a' := by
  obtain rfl | ⟨ha, ha'⟩ := h.eq_or_isZero hn
  · exact ⟨rfl, rfl⟩
  · simp [signedSignificand_of_isZero, scale_of_isZero, ha, ha']

theorem SameNumber.addFinite {a a' b b' : F64} (ha : SameNumber a a') (hb : SameNumber b b') (hna : isNaN a' = false)
    (hnb : isNaN b' = false) : SameNumber (addFinite a b) (addFinite a' b') := by
  obtain ⟨hsa, hea⟩ := signedSignificand_eq_of_sameNumber ha hna
  obtain ⟨hsb, heb⟩ := signedSignificand_eq_of_sameNumber hb hnb
  have hsum : exactSum a b = exactSum a' b' := by rw [exactSum, hsa, hsb, hea, heb, exactSum]
  simp only [Float64.addFinite, hsum, hea, heb]
  split
  · exact .inr ⟨isZero_ofParts_zero _, isZero_ofParts_zero _⟩
  · exact .refl _

/-- Addition does not tell the bits of a NaN or the sign of a zero apart. -/
theorem SameNumber.add {a a' b b' : F64} (ha : SameNumber a a') (hb : SameNumber b b') (d d' : Nat) :
    SameNumber (add d a b) (add d' a' b') := by
  simp only [Float64.add, ha.isNaN_eq, hb.isNaN_eq, ha.isInf_eq, hb.isInf_eq]
  split
  next => exact sameNumber_nan d d'
  next hn =>
    obtain ⟨hna, hnb⟩ : isNaN a' = false ∧ isNaN b' = false := by simpa using hn
    split
    next hia =>
      obtain rfl := ha.eq_of_isInf hia
      cases hib : isInf b'
      · simpa using SameNumber.refl a
      · obtain rfl := hb.eq_of_isInf hib
        split
        · exact sameNumber_nan d d'
        · exact .refl a
    next =>
      split
      · exact hb
      · exact ha.addFinite hb hna hnb

theorem SameNumber.sub {a a' b b' : F64} (ha : SameNumber a a') (hb : SameNumber b b') (d d' : Nat) :
    SameNumber (sub d a b) (sub d' a' b') := ha.add hb.neg d d'

theorem addFinite_neg_neg (a b : F64) : SameNumber (addFinite (neg a) (neg b)) (neg (addFinite a b)) := by
  have hsum : exactSum (neg a) (neg b) = -exactSum a b := by
    simp only [exactSum, signedSignificand_neg, scale_neg]
    ring
  simp only [addFinite, hsum, scale_neg, neg_eq_zero, Int.natAbs_neg]
  split
  next => exact .inr ⟨isZero_ofParts_zero _, (isZero_neg _).trans (isZero_ofParts_zero _)⟩
  next h0 =>
    have hsign : decide (-exactSum a b < 0) = !decide (exactSum a b < 0) := by
      rw [← decide_not]
      exact decide_eq_decide.2 (by omega)
    rw [neg_round, hsign]
    exact .refl _

/-- The sum of opposite operands is opposite, but for the sign of an exact zero. -/
theorem add_neg_neg (d d' : Nat) (a b : F64) : SameNumber (add d (neg a) (neg b)) (neg (add d' a b)) := by
  simp only [add, isNaN_neg, isInf_neg, sign_neg, Bool.not_bne_not]
  split
  · exact .inl (sameValue_nan_neg d d')
  split
  · split
    · exact .inl (sameValue_nan_neg d d')
    · exact .refl _
  split
  · exact .refl _
  · exact addFinite_neg_neg a b

theorem SameNumber.add_neg {a a' b b' : F64} (ha : SameNumber a' (Float64.neg a)) (hb : SameNumber b' (Float64.neg b))
    (d d' : Nat) : SameNumber (Float64.add d' a' b') (Float64.neg (Float64.add d a b)) :=
  (ha.add hb d' d').trans (add_neg_neg d' d a b)

/-! ### Products -/

/-- Multiplication does not tell the bits of a NaN or the sign of a zero apart. -/
theorem SameNumber.mul {a a' b b' : F64} (ha : SameNumber a a') (hb : SameNumber b b') (d d' : Nat) :
    SameNumber (mul d a b) (mul d' a' b') := by
  simp only [Float64.mul, ha.isNaN_eq, hb.isNaN_eq, ha.isInf_eq, hb.isInf_eq, ha.isZero_eq, hb.isZero_eq]
  split
  next => exact sameNumber_nan d d'
  next hn =>
    obtain ⟨hna, hnb⟩ : isNaN a' = false ∧ isNaN b' = false := by simpa using hn
    cases hz : isZero a' || isZero b'
    case false =>
      obtain ⟨hza, hzb⟩ := Bool.or_eq_false_iff.1 hz
      obtain rfl := ha.eq_of_isZero_eq_false hna hza
      obtain rfl := hb.eq_of_isZero_eq_false hnb hzb
      split
      · exact .refl _
      · exact .refl _
    case true =>
      split
      · exact sameNumber_nan d d'
      · have hsig : ∀ {x y : F64}, (isZero x || isZero y) = true → significand x * significand y = 0 := fun h =>
          mul_eq_zero.2 ((Bool.or_eq_true _ _ ▸ h).imp significand_of_isZero significand_of_isZero)
        rw [hsig hz, hsig (by rwa [ha.isZero_eq, hb.isZero_eq])]
        exact .inr ⟨isZero_ofParts_zero _, isZero_ofParts_zero _⟩

/-- A product whose sign alone is changed is opposite. -/
theorem mul_sameNumber_neg_of_sign {a a' b b' : F64} (ha : mag a' = mag a) (hb : mag b' = mag b)
    (hs : (sign a' != sign b') = !(sign a != sign b)) (d d' : Nat) : SameNumber (mul d' a' b') (neg (mul d a b)) := by
  simp only [mul, isNaN_congr ha, isNaN_congr hb, isInf_congr ha, isInf_congr hb, isZero_congr ha, isZero_congr hb,
    significand_congr ha, significand_congr hb, scale_congr ha, scale_congr hb, hs]
  split
  · exact .inl (sameValue_nan_neg d' d)
  split
  · split
    · exact .inl (sameValue_nan_neg d' d)
    · rw [neg_ofParts _ infMag_lt]
      exact .refl _
  · rw [neg_round]
    exact .refl _

namespace SameNumber

variable {a a' b b' : F64}

theorem mul_neg_left (ha : SameNumber a' (Float64.neg a)) (hb : SameNumber b' b) (d d' : Nat) :
    SameNumber (Float64.mul d' a' b') (Float64.neg (Float64.mul d a b)) :=
  (ha.mul hb d' d').trans (mul_sameNumber_neg_of_sign (mag_neg a) rfl (by simp) d d')

theorem mul_neg_right (ha : SameNumber a' a) (hb : SameNumber b' (Float64.neg b)) (d d' : Nat) :
    SameNumber (Float64.mul d' a' b') (Float64.neg (Float64.mul d a b)) :=
  (ha.mul hb d' d').trans (mul_sameNumber_neg_of_sign rfl (mag_neg b) (by simp) d d')

theorem mul_neg_neg (ha : SameNumber a' (Float64.neg a)) (hb : SameNumber b' (Float64.neg b)) (d d' : Nat) :
    SameNumber (Float64.mul d' a' b') (Float64.mul d a b) := by
  have h := (ha.mul_neg_left (.refl b') d d').trans ((SameNumber.refl a).mul_neg_right hb d d).neg
  rwa [Float64.neg_neg] at h

end SameNumber
end Sys2Proof.Machine.Float64
end

section
/-! PROOFS. The rotation factor of a group (41_twiddle R103): its value in exact arithmetic, and the factors of the two
directions as conjugates of each other. -/

namespace Sys2Proof.Machine

variable {M F : Type}

/-! ### The recurrence over any numerics -/

theorem factorAfter_zero_regs (num : Num F) (dir : Direction) (s : Nat) (w : Work M F) :
    (factorAfter num dir s 0 w).regs.twRe = num.fromNat 1 ∧ (factorAfter num dir s 0 w).regs.twIm = num.zero :=
  ⟨rfl, rfl⟩

/-! ### Exact arithmetic: every advance turns the factor by DELTA -/

/-- The multiplier pair turns by δ, and the factor stands at the angle φ. -/
structure Regs.Turning (δ φ : ℝ) (r : Regs ℝ) : Prop where
  mulRe : r.mulRe = Real.cos δ - 1
  mulIm : r.mulIm = Real.sin δ
  twRe : r.twRe = Real.cos φ
  twIm : r.twIm = Real.sin φ

theorem baseAngle_exactNum (d : Nat) (dir : Direction) : baseAngle exactNum d dir = -(dir.d * Real.pi) := by
  cases dir <;> simp [baseAngle, exactNum, Direction.d]

theorem twSetup_exactNum_turning (dir : Direction) (s : Nat) (w : Work M ℝ) :
    (twInit exactNum (twSetup exactNum dir s w)).regs.Turning (-(dir.d * Real.pi) / s) 0 where
  mulRe := by
    have half := Real.cos_sq' (-(dir.d * Real.pi) / s / 2)
    have double := Real.cos_two_mul (-(dir.d * Real.pi) / s / 2)
    rw [mul_div_cancel₀ _ two_ne_zero] at double
    simp only [twInit, twSetup, baseAngle_exactNum]
    simp only [exactNum, Nat.cast_ofNat]
    linarith
  mulIm := by
    simp only [twInit, twSetup, baseAngle_exactNum]
    rfl
  twRe := by simp [twInit, exactNum]
  twIm := by simp [twInit, exactNum]

theorem twAdv_exactNum_turning {δ φ : ℝ} {w : Work M ℝ} (h : w.regs.Turning δ φ) :
    (twAdv exactNum w).regs.Turning δ (φ + δ) where
  mulRe := h.mulRe
  mulIm := h.mulIm
  twRe := by
    simp only [twAdv, exactNum, h.mulRe, h.mulIm, h.twRe, h.twIm, Real.cos_add]
    ring
  twIm := by
    simp only [twAdv, exactNum, h.mulRe, h.mulIm, h.twRe, h.twIm, Real.sin_add]
    ring

theorem factorAfter_exactNum_turning (dir : Direction) (s g : Nat) (w : Work M ℝ) :
    (factorAfter exactNum dir s g w).regs.Turning (-(dir.d * Real.pi) / s) (g * (-(dir.d * Real.pi) / s)) := by
  refine forStride_induction (P := fun t (v : Work M ℝ) => v.regs.Turning _ (t * (-(dir.d * Real.pi) / s))) g ?_ ?_
  · simpa using twSetup_exactNum_turning dir s w
  · intro t v _ h
    have := twAdv_exactNum_turning h
    rwa [← add_one_mul, ← Nat.cast_succ] at this

/-- The real value of the factor of group g. -/
theorem factorAfter_exactNum (dir : Direction) (s g : Nat) (w : Work M ℝ) :
    (factorAfter exactNum dir s g w).regs.twRe = Real.cos (g * Real.pi / s) ∧
    (factorAfter exactNum dir s g w).regs.twIm = -(dir.d : ℝ) * Real.sin (g * Real.pi / s) := by
  obtain ⟨-, -, hre, him⟩ := factorAfter_exactNum_turning dir s g w
  have hangle : (g : ℝ) * (-(dir.d * Real.pi) / s) = -(dir.d * (g * Real.pi / s)) := by ring
  rw [hre, him, hangle, Real.cos_neg, Real.sin_neg]
  cases dir <;> simp [Direction.d]

/-! ### The factors of the two directions -/

open Float64

/-- The multiplier pair and the factor of the inverse direction are the conjugates of those of the forward one. -/
structure Regs.ConjugateFactors (r r' : Regs F64) : Prop where
  mulRe : SameNumber r'.mulRe r.mulRe
  mulIm : SameNumber r'.mulIm (neg r.mulIm)
  twRe : SameNumber r'.twRe r.twRe
  twIm : SameNumber r'.twIm (neg r.twIm)

variable (sinRaw cosRaw : F64 → F64) (atan2Raw : F64 → F64 → F64)

theorem baseAngle_forward (d : Nat) : baseAngle (Float64.num sinRaw cosRaw atan2Raw) d .forward = neg pi := by
  simp only [baseAngle, Float64.num]
  exact one_mul_eq d (by decide +kernel)

theorem baseAngle_inverse (d : Nat) : baseAngle (Float64.num sinRaw cosRaw atan2Raw) d .inverse = pi := by
  simp only [baseAngle, Float64.num]
  exact (mul_of_isFinite d (by decide +kernel) (by decide +kernel)).trans (by decide +kernel)

theorem twSetup_conjugate (s : Nat) (w w' : Work M F64) :
    (twInit (Float64.num sinRaw cosRaw atan2Raw)
        (twSetup (Float64.num sinRaw cosRaw atan2Raw) .forward s w)).regs.ConjugateFactors
      (twInit (Float64.num sinRaw cosRaw atan2Raw)
        (twSetup (Float64.num sinRaw cosRaw atan2Raw) .inverse s w')).regs := by
  have hpi : SameValue pi (neg (neg pi)) := .inl (Float64.neg_neg pi).symm
  have hdelta := hpi.div_neg (w.draw + 1) (w'.draw + 1) (fromNat s)
  have hsine := (hdelta.div_neg (w.draw + 2) (w'.draw + 2) (fromNat 2)).sin_neg sinRaw
  have hsquare := SameNumber.mul_neg_neg (.inl hsine) (.inl hsine) (w.draw + 3) (w'.draw + 3)
  have hmulRe := ((SameNumber.refl (fromNat 2)).mul hsquare (w'.draw + 4) (w.draw + 4)).neg
  have hmulIm : SameNumber _ _ := .inl (hdelta.sin_neg sinRaw)
  have hzero : SameNumber zero (neg zero) := .inr ⟨by decide, by decide⟩
  constructor
  case mulRe =>
    simp only [twInit, twSetup, baseAngle_forward, baseAngle_inverse]
    simp only [Float64.num]
    exact hmulRe
  case mulIm =>
    simp only [twInit, twSetup, baseAngle_forward, baseAngle_inverse]
    simp only [Float64.num]
    exact hmulIm
  case twRe => exact .refl (fromNat 1)
  case twIm => exact hzero

theorem twAdv_conjugate {w w' : Work M F64} (h : w.regs.ConjugateFactors w'.regs) :
    (twAdv (Float64.num sinRaw cosRaw atan2Raw) w).regs.ConjugateFactors
      (twAdv (Float64.num sinRaw cosRaw atan2Raw) w').regs where
  mulRe := h.mulRe
  mulIm := h.mulIm
  twRe := ((h.mulRe.mul h.twRe _ _).sub (h.mulIm.mul_neg_neg h.twIm _ _) _ _).add h.twRe _ _
  twIm := ((h.mulIm.mul_neg_left h.twRe _ _).add_neg (h.mulRe.mul_neg_right h.twIm _ _) _ _).add_neg h.twIm _ _

theorem factorAfter_conjugate (s g : Nat) (w w' : Work M F64) :
    (factorAfter (Float64.num sinRaw cosRaw atan2Raw) .forward s g w).regs.ConjugateFactors
      (factorAfter (Float64.num sinRaw cosRaw atan2Raw) .inverse s g w').regs :=
  forStride_related (R := fun v v' : Work M F64 => v.regs.ConjugateFactors v'.regs) g
    (twSetup_conjugate sinRaw cosRaw atan2Raw s w w') fun _ _ _ _ h => twAdv_conjugate sinRaw cosRaw atan2Raw h

/-- Settles O38: in exact arithmetic every advance turns the factor by DELTA; in F every advance keeps the factors of
the two directions conjugate. -/
theorem twiddleFactors : Obligations.TwiddleFactors := by
  refine ⟨fun dir s g w _ => factorAfter_exactNum dir s g w, fun sinRaw cosRaw atan2Raw dir s w =>
    factorAfter_zero_regs _ dir s w, fun sinRaw cosRaw atan2Raw s g w w' _ => ?_⟩
  have h := factorAfter_conjugate sinRaw cosRaw atan2Raw s g w w'
  exact ⟨h.twRe, h.twIm⟩

end Sys2Proof.Machine
end

section
/-! PROOFS. The operations of F up to the bits of a NaN (00_scope R9): values that agree give results that agree,
whichever free value a NaN takes its bits from. -/

namespace Sys2Proof.Machine.Float64

/-- An operation that answers a NaN for a NaN, and takes nothing but the bits of a NaN from its free value, does not
tell the bits of a NaN apart. -/
theorem SameValue.of_nan_absorbing {op : Nat → F64 → F64 → F64}
    (hnan : ∀ d {x y}, (isNaN x || isNaN y) = true → isNaN (op d x y) = true)
    (hdraw : ∀ d d' x y, SameValue (op d x y) (op d' x y))
    {a a' b b' : F64} (ha : SameValue a a') (hb : SameValue b b') (d d' : Nat) :
    SameValue (op d a b) (op d' a' b') := by
  rcases ha with rfl | ⟨ha, ha'⟩
  case inr => exact .inr ⟨hnan d (by simp [ha]), hnan d' (by simp [ha'])⟩
  rcases hb with rfl | ⟨hb, hb'⟩
  case inr => exact .inr ⟨hnan d (by simp [hb]), hnan d' (by simp [hb'])⟩
  exact hdraw d d' a b

theorem isNaN_add (d : Nat) {a b : F64} (h : (isNaN a || isNaN b) = true) : isNaN (add d a b) = true := by
  rw [add, if_pos h, isNaN_nan]

theorem isNaN_mul (d : Nat) {a b : F64} (h : (isNaN a || isNaN b) = true) : isNaN (mul d a b) = true := by
  rw [mul, if_pos h, isNaN_nan]

theorem add_sameValue (d d' : Nat) (a b : F64) : SameValue (add d a b) (add d' a b) := by
  simp only [add]
  split_ifs
  · exact sameValue_nan d d'
  · exact sameValue_nan d d'
  all_goals exact .refl _

theorem mul_sameValue (d d' : Nat) (a b : F64) : SameValue (mul d a b) (mul d' a b) := by
  simp only [mul]
  split_ifs
  · exact sameValue_nan d d'
  · exact sameValue_nan d d'
  all_goals exact .refl _

section Congruence

variable {a a' b b' : F64} (ha : SameValue a a') (hb : SameValue b b') (d d' : Nat)
include ha

theorem SameValue.neg : SameValue (neg a) (neg a') :=
  ha.imp (congrArg _) fun ⟨h, h'⟩ => ⟨(isNaN_neg a).trans h, (isNaN_neg a').trans h'⟩

include hb

theorem SameValue.add : SameValue (add d a b) (add d' a' b') := ha.of_nan_absorbing isNaN_add add_sameValue hb d d'

theorem SameValue.sub : SameValue (sub d a b) (sub d' a' b') := ha.add hb.neg d d'

theorem SameValue.mul : SameValue (mul d a b) (mul d' a' b') := ha.of_nan_absorbing isNaN_mul mul_sameValue hb d d'

end Congruence

end Sys2Proof.Machine.Float64
end

section
/-! PROOFS. The radix-2 butterfly (42_fft R110): what each element of DST holds after it, over any environment in which
stores are read back, and on the buffers the bytes it leaves. -/

namespace Sys2Proof.Machine

/-! ### The bytes outside given lanes -/

theorem Memory.sameOutsideLanes.trans {ks : List Nat} {ls : List Lane} {m m' m'' : Memory}
    (h : m.sameOutsideLanes ks ls m') (h' : m'.sameOutsideLanes ks ls m'') : m.sameOutsideLanes ks ls m'' :=
  fun a ha => (h' a ha).trans (h a ha)

theorem put_sameOutsideLanes (num : Num F64) (srcSeed dstSeed : Nat) {ks : List Nat} {ls : List Lane} {k : Nat}
    {l : Lane} (hk : k ∈ ks) (hl : l ∈ ls) (m : Memory) (x : F64) :
    m.sameOutsideLanes ks ls ((bufferEnv num srcSeed dstSeed).put m k l x) :=
  fun _ ha => readByte_put num srcSeed dstSeed m k l x (ha k hk l hl)

theorem put_pair_sameOutsideLanes (num : Num F64) (srcSeed dstSeed : Nat) {ks : List Nat} {k : Nat} (hk : k ∈ ks)
    (re im : F64) (w : Work Memory F64) :
    w.mem.sameOutsideLanes ks [.re, .im] (w.put (bufferEnv num srcSeed dstSeed) k re im).mem := by
  rw [Work.put_mem]
  exact (put_sameOutsideLanes num srcSeed dstSeed hk (by simp) w.mem re).trans
    (put_sameOutsideLanes num srcSeed dstSeed hk (by simp) _ im)

/-! ### The lanes of a butterfly -/

section Butterfly

variable {M F : Type}

/-- The product of the factor and the pair b, from the free value d on (42 R110). -/
def bflyProduct (num : Num F) (r : Regs F) (d : Nat) (b : Lane → F) : Lane → F :=
  laneOf (num.sub (d + 2) (num.mul d r.twRe (b .re)) (num.mul (d + 1) r.twIm (b .im)))
    (num.add (d + 5) (num.mul (d + 3) r.twRe (b .im)) (num.mul (d + 4) r.twIm (b .re)))

/-- What BFLY(p, q) leaves in DST[q]: the old DST[p] less the product. -/
def bflyDifference (e : Env M F) (p q : Nat) (w : Work M F) : Lane → F :=
  let pr := bflyProduct e.num w.regs w.draw (e.dst w.mem q)
  laneOf (e.num.sub (w.draw + 6) (e.dst w.mem p .re) (pr .re)) (e.num.sub (w.draw + 7) (e.dst w.mem p .im) (pr .im))

/-- What BFLY(p, q) leaves in DST[p]: the old DST[p] plus the product. -/
def bflySum (e : Env M F) (p q : Nat) (w : Work M F) : Lane → F :=
  let pr := bflyProduct e.num w.regs w.draw (e.dst w.mem q)
  laneOf (e.num.add (w.draw + 8) (e.dst w.mem p .re) (pr .re)) (e.num.add (w.draw + 9) (e.dst w.mem p .im) (pr .im))

theorem bfly_eq (e : Env M F) (p q : Nat) (w : Work M F) :
    bfly e p q w =
      ((w.put e q (bflyDifference e p q w .re) (bflyDifference e p q w .im)).put e p
        (bflySum e p q w .re) (bflySum e p q w .im)).spend 10 := rfl

@[simp] theorem bfly_regs (e : Env M F) (p q : Nat) (w : Work M F) : (bfly e p q w).regs = w.regs := rfl

@[simp] theorem bfly_draw (e : Env M F) (p q : Nat) (w : Work M F) : (bfly e p q w).draw = w.draw + 10 := rfl

/-- Every element of DST after a butterfly. -/
theorem dst_bfly {e : Env M F} {n : Nat} (he : e.ReadsStores n) {p q k : Nat} (hp : p < n) (hq : q < n) (hk : k < n)
    (l : Lane) (w : Work M F) :
    e.dst (bfly e p q w).mem k l =
      if k = p then bflySum e p q w l else if k = q then bflyDifference e p q w l else e.dst w.mem k l := by
  rw [bfly_eq, Work.spend_mem, dst_put_pair he hp hk, dst_put_pair he hq hk, laneOf_eta (bflySum e p q w),
    laneOf_eta (bflyDifference e p q w)]

end Butterfly

theorem bfly_sameOutsideLanes (num : Num F64) (srcSeed dstSeed p q : Nat) (w : Work Memory F64) :
    w.mem.sameOutsideLanes [p, q] [.re, .im] (bfly (bufferEnv num srcSeed dstSeed) p q w).mem := by
  rw [bfly_eq, Work.spend_mem]
  exact (put_pair_sameOutsideLanes num srcSeed dstSeed (by simp) _ _ w).trans
    (put_pair_sameOutsideLanes num srcSeed dstSeed (by simp) _ _ _)

/-- The product on the core, up to the bits of a NaN: any free values serve. -/
theorem bflyProduct_sameValue (r : Regs F64) (d d' : Nat) (b : Lane → F64) (l : Lane) :
    Float64.SameValue (bflyProduct coreNum r d b l)
      (laneOf
        (Float64.sub d' (Float64.mul d' r.twRe (b .re)) (Float64.mul d' r.twIm (b .im)))
        (Float64.add d' (Float64.mul d' r.twRe (b .im)) (Float64.mul d' r.twIm (b .re))) l) := by
  have hmul : ∀ i x y, Float64.SameValue (Float64.mul i x y) (Float64.mul d' x y) := fun i =>
    Float64.mul_sameValue i d'
  cases l
  case re => exact (hmul _ _ _).sub (hmul _ _ _) _ _
  case im => exact (hmul _ _ _).add (hmul _ _ _) _ _

/-- Settles O36: the lanes after the two stores are the difference and the sum of the old DST[p] and the product, each
up to the bits of a NaN; every byte outside the two elements is outside each of the four stores. -/
theorem butterflyWritesTwoElements : Obligations.ButterflyWritesTwoElements := by
  intro p q srcSeed dstSeed w hpq hq e t a b prRe prIm
  have he := bufferEnv_readsStores coreNum srcSeed dstSeed
  have hp := hpq.trans hq
  have hdstP : ∀ l, e.dst t.mem p l = bflySum e p q w l := fun l => (dst_bfly he hp hq hp l w).trans (if_pos rfl)
  have hdstQ : ∀ l, e.dst t.mem q l = bflyDifference e p q w l := fun l =>
    (dst_bfly he hp hq hq l w).trans ((if_neg hpq.ne').trans (if_pos rfl))
  have hre := bflyProduct_sameValue w.regs w.draw 0 b .re
  have him := bflyProduct_sameValue w.regs w.draw 0 b .im
  rw [hdstP, hdstP, hdstQ, hdstQ]
  exact ⟨(Float64.SameValue.refl (a .re)).sub hre _ _, (Float64.SameValue.refl (a .im)).sub him _ _,
    (Float64.SameValue.refl (a .re)).add hre _ _, (Float64.SameValue.refl (a .im)).add him _ _,
    bfly_regs e p q w, bfly_sameOutsideLanes coreNum srcSeed dstSeed p q w⟩

end Sys2Proof.Machine
end

section
/-! PROOFS. The rotation and the combination of the Hartley ladder (43_hartley R131, R132): each stores two real lanes of
DST, both values taken from the pair before the first store. -/

namespace Sys2Proof.Machine

/-! ### Storing two real lanes -/

section RealPair

variable {M F : Type}

/-- MemWrite of the real lane of DST[x], then of DST[y]. -/
def Work.putRePair (e : Env M F) (x y : Nat) (u v : F) (w : Work M F) : Work M F := (w.putRe e x u).putRe e y v

@[simp] theorem Work.putRePair_regs (e : Env M F) (x y : Nat) (u v : F) (w : Work M F) :
    (w.putRePair e x y u v).regs = w.regs := rfl

theorem dst_putRePair {e : Env M F} {n : Nat} (he : e.ReadsStores n) {x y k : Nat} (hx : x < n) (hy : y < n)
    (hk : k < n) (l : Lane) (u v : F) (w : Work M F) :
    e.dst (w.putRePair e x y u v).mem k l =
      if k = y ∧ l = .re then v else if k = x ∧ l = .re then u else e.dst w.mem k l := by
  rw [Work.putRePair, Work.putRe_mem, Work.putRe_mem, he.dst_put _ _ _ _ hy hk, he.dst_put _ _ _ _ hx hk]

theorem dst_putRePair_fst {e : Env M F} {n : Nat} (he : e.ReadsStores n) {x y : Nat} (hxy : x < y) (hy : y < n)
    (u v : F) (w : Work M F) : e.dst (w.putRePair e x y u v).mem x .re = u := by
  have hx := hxy.trans hy
  rw [dst_putRePair he hx hy hx, if_neg (hxy.ne ·.1), if_pos ⟨rfl, rfl⟩]

theorem dst_putRePair_snd {e : Env M F} {n : Nat} (he : e.ReadsStores n) {x y : Nat} (hxy : x < y) (hy : y < n)
    (u v : F) (w : Work M F) : e.dst (w.putRePair e x y u v).mem y .re = v := by
  rw [dst_putRePair he (hxy.trans hy) hy hy, if_pos ⟨rfl, rfl⟩]

end RealPair

theorem putRePair_sameOutsideLanes (num : Num F64) (srcSeed dstSeed x y : Nat) (u v : F64) (w : Work Memory F64) :
    w.mem.sameOutsideLanes [x, y] [.re] (w.putRePair (bufferEnv num srcSeed dstSeed) x y u v).mem := by
  rw [Work.putRePair, Work.putRe_mem, Work.putRe_mem]
  exact (put_sameOutsideLanes num srcSeed dstSeed (by simp) (by simp) w.mem u).trans
    (put_sameOutsideLanes num srcSeed dstSeed (by simp) (by simp) _ v)

/-! ### HT.ROT and HT.ADDSUB as such stores -/

section Ladder

variable {M F : Type}

/-- a·c + b·s, from the free value d on (43 R131). -/
def rotationSum (num : Num F) (d : Nat) (a b c sn : F) : F :=
  num.add (d + 2) (num.mul d a c) (num.mul (d + 1) b sn)

/-- a·s − b·c, from the free value d on (43 R131). -/
def rotationDifference (num : Num F) (d : Nat) (a b c sn : F) : F :=
  num.sub (d + 2) (num.mul d a sn) (num.mul (d + 1) b c)

theorem htRot_eq (e : Env M F) (x y : Nat) {t : Nat} {w : Work M F} {c sn : F} (hc : w.regs.htC[t]? = some c)
    (hsn : w.regs.htS[t]? = some sn) :
    htRot e x y t w =
      (w.putRePair e x y (rotationSum e.num w.draw (e.dst w.mem x .re) (e.dst w.mem y .re) c sn)
        (rotationDifference e.num (w.draw + 3) (e.dst w.mem x .re) (e.dst w.mem y .re) c sn)).spend 6 := by
  simp only [htRot, List.getD_eq_getElem?_getD, hc, hsn, Option.getD_some]
  rfl

theorem htAddSub_eq (e : Env M F) (x y : Nat) (w : Work M F) :
    htAddSub e x y w =
      (w.putRePair e x y (e.num.add w.draw (e.dst w.mem x .re) (e.dst w.mem y .re))
        (e.num.sub (w.draw + 1) (e.dst w.mem x .re) (e.dst w.mem y .re))).spend 2 := rfl

end Ladder

/-! ### Their values on the core, up to the bits of a NaN -/

theorem rotationSum_sameValue (d d' : Nat) (a b c sn : F64) :
    Float64.SameValue (rotationSum coreNum d a b c sn)
      (Float64.add d' (Float64.mul d' a c) (Float64.mul d' b sn)) :=
  (Float64.mul_sameValue d d' a c).add (Float64.mul_sameValue (d + 1) d' b sn) _ _

theorem rotationDifference_sameValue (d d' : Nat) (a b c sn : F64) :
    Float64.SameValue (rotationDifference coreNum d a b c sn)
      (Float64.sub d' (Float64.mul d' a sn) (Float64.mul d' b c)) :=
  (Float64.mul_sameValue d d' a sn).sub (Float64.mul_sameValue (d + 1) d' b c) _ _

/-- Settles O37: both procedures are one store of two real lanes, whose values come from the pair before it. -/
theorem rotationAndCombination : Obligations.RotationAndCombination := by
  intro x y k srcSeed dstSeed w c sn hxy hy hc hsn e a b r u
  have he : e.ReadsStores Config.nmax := bufferEnv_readsStores coreNum srcSeed dstSeed
  have hr : r = _ := htRot_eq e x y hc hsn
  have hu : u = _ := htAddSub_eq e x y w
  simp only [hr, hu, Work.spend_mem, Work.spend_regs, Work.putRePair_regs, dst_putRePair_fst he hxy hy,
    dst_putRePair_snd he hxy hy, true_and]
  exact ⟨rotationSum_sameValue _ 0 a b c sn, rotationDifference_sameValue _ 0 a b c sn,
    putRePair_sameOutsideLanes coreNum srcSeed dstSeed x y _ _ w, Float64.add_sameValue _ 0 a b,
    (Float64.SameValue.refl a).sub (.refl b) _ _, putRePair_sameOutsideLanes coreNum srcSeed dstSeed x y _ _ w⟩

end Sys2Proof.Machine
end

section
/-! PROOFS. PHASE.E (44_spectral R151): the rows of the table of special cases, one lemma for each class of arguments,
and the range of ATAN2 from the magnitudes of its results. -/

namespace Sys2Proof.Machine.Float64

theorem not_isZero_of_isInf {a : F64} (h : isInf a = true) : isZero a = false :=
  Bool.eq_false_iff.2 fun hz => by simp [not_isInf_of_isZero hz] at h

theorem not_isNaN_of_isZero {a : F64} (h : isZero a = true) : isNaN a = false :=
  Bool.eq_false_iff.2 fun hn => by simp [not_isZero_of_isNaN hn] at h

@[simp] theorem mag_signed (s : Bool) (x : F64) : mag (signed s x) = mag x := by cases s <;> simp [signed]

theorem mag_boundAngle_le (x : F64) : mag (boundAngle x) ≤ mag pi := by
  unfold boundAngle
  split
  case isTrue h => exact h
  case isFalse => decide

/-- A word whose magnitude is at most that of PI is an angle of the range of ATAN2. -/
theorem angle_of_mag_le {x : F64} (h : mag x ≤ mag pi) : isFinite x = true ∧ |value x| ≤ value pi := by
  have hval : value pi = |value pi| := by
    rw [abs_value, value_eq, show sign pi = false by decide, sgn_false, one_mul]
  refine ⟨decide_eq_true (h.trans_lt (by decide)), ?_⟩
  rw [hval, abs_value, abs_value]
  gcongr
  exact magVal_strictMono.monotone h

/-! ### ATAN2 by the classes of its arguments -/

section Atan2

variable (raw : F64 → F64 → F64) {y x : F64}

theorem isNaN_atan2 (h : isNaN y = true ∨ isNaN x = true) : isNaN (atan2 raw y x) = true := by
  rw [atan2, if_pos (by simpa using h), isNaN_nanOf]

theorem atan2_of_isZero_left (hx : isNaN x = false) (h : isZero y = true) :
    atan2 raw y x = signed (sign y) (if sign x then pi else zero) := by
  simp only [atan2, not_isNaN_of_isZero h, hx, h, Bool.or_self, Bool.false_eq_true, if_false, if_true]
  exact (apply_ite (signed (sign y)) _ _ _).symm

theorem atan2_of_isZero_right (hy : isNaN y = false) (hy0 : isZero y = false) (h : isZero x = true) :
    atan2 raw y x = signed (sign y) halfPi := by
  simp [atan2, hy, not_isNaN_of_isZero h, hy0, h]

theorem atan2_of_isFinite_isInf (hy : isFinite y = true) (hy0 : isZero y = false) (h : isInf x = true) :
    atan2 raw y x = signed (sign y) (if sign x then pi else zero) := by
  simp only [atan2, not_isNaN_of_isFinite hy, not_isNaN_of_isInf h, hy0, not_isZero_of_isInf h,
    not_isInf_of_isFinite hy, h, Bool.or_self, Bool.false_eq_true, if_false, if_true]
  exact (apply_ite (signed (sign y)) _ _ _).symm

theorem atan2_of_isInf_isFinite (h : isInf y = true) (hx : isFinite x = true) :
    atan2 raw y x = signed (sign y) halfPi := by
  simp [atan2, not_isNaN_of_isInf, not_isNaN_of_isFinite, not_isZero_of_isInf, not_isInf_of_isFinite, h, hx]

theorem atan2_of_isInf_isInf (h : isInf y = true) (hx : isInf x = true) :
    atan2 raw y x = signed (sign y) (if sign x then threeQuarterPi else quarterPi) := by
  simp only [atan2, not_isNaN_of_isInf, not_isZero_of_isInf, h, hx, Bool.or_self, Bool.false_eq_true, if_false, if_true]
  exact (apply_ite (signed (sign y)) _ _ _).symm

theorem atan2_of_isFinite_isFinite (hy : isFinite y = true) (hx : isFinite x = true) (hy0 : isZero y = false)
    (hx0 : isZero x = false) : atan2 raw y x = boundAngle (raw y x) := by
  simp [atan2, not_isNaN_of_isFinite, not_isInf_of_isFinite, hy, hx, hy0, hx0]

/-- The range of ATAN2, one case for each class of arguments. -/
theorem mag_atan2_le (hy : isNaN y = false) (hx : isNaN x = false) : mag (atan2 raw y x) ≤ mag pi := by
  cases hy0 : isZero y
  case true =>
    rw [atan2_of_isZero_left raw hx hy0, mag_signed]
    cases sign x <;> decide
  case false =>
    rcases isInf_or_isFinite hy with hyi | hyf <;> rcases isInf_or_isFinite hx with hxi | hxf
    case inl.inl =>
      rw [atan2_of_isInf_isInf raw hyi hxi, mag_signed]
      cases sign x <;> decide
    case inl.inr =>
      rw [atan2_of_isInf_isFinite raw hyi hxf, mag_signed]
      decide
    case inr.inl =>
      rw [atan2_of_isFinite_isInf raw hyf hy0 hxi, mag_signed]
      cases sign x <;> decide
    case inr.inr =>
      cases hx0 : isZero x
      case true =>
        rw [atan2_of_isZero_right raw hy hy0 hx0, mag_signed]
        decide
      case false =>
        rw [atan2_of_isFinite_isFinite raw hyf hxf hy0 hx0]
        exact mag_boundAngle_le _

end Atan2

end Sys2Proof.Machine.Float64

namespace Sys2Proof.Machine

/-- Settles O51: PHASE.E is ATAN2 by definition, and each row of the table is ATAN2 on its class of arguments. -/
theorem phaseSpecialCases : Obligations.PhaseSpecialCases := by
  intro sinRaw cosRaw raw re im num ph withSign
  refine ⟨rfl, Float64.isNaN_atan2 raw, fun hre him => ?_⟩
  obtain ⟨hfinite, hrange⟩ := Float64.angle_of_mag_le (Float64.mag_atan2_le raw hre him)
  refine ⟨hfinite, hrange, fun h0 hs => ?posAbscissa, fun h0 hs => ?negAbscissa,
    Float64.atan2_of_isZero_right raw hre, Float64.atan2_of_isFinite_isInf raw, Float64.atan2_of_isInf_isFinite raw,
    Float64.atan2_of_isInf_isInf raw⟩
  case posAbscissa => exact (Float64.atan2_of_isZero_left raw him h0).trans (by rw [hs]; rfl)
  case negAbscissa => exact (Float64.atan2_of_isZero_left raw him h0).trans (by rw [hs]; rfl)

end Sys2Proof.Machine
end

section
/-! PROOFS. MAG.E (44_spectral R150): squares are never negative, and sums and roots of words that are never negative
stay so; a NaN comes only from a NaN, and an infinite square is never lost. -/

namespace Sys2Proof.Machine.Float64

/-! ### Words that are at least +0 -/

/-- At least +0: no NaN, and the sign bit clear. -/
def NonNegative (a : F64) : Prop := isNaN a = false ∧ sign a = false

theorem isNaN_ofParts {s : Bool} {m : Nat} (h : m ≤ infMag) : isNaN (ofParts s m) = false :=
  decide_eq_false (by rw [mag_ofParts s (h.trans_lt infMag_lt)]; exact h.not_gt)

theorem nonNegative_ofParts {m : Nat} (h : m ≤ infMag) : NonNegative (ofParts false m) :=
  ⟨isNaN_ofParts h, sign_ofParts _ (h.trans_lt infMag_lt)⟩

theorem nonNegative_round (m : Nat) (e : Int) : NonNegative (round false m e) := nonNegative_ofParts (roundMag_le m e)

theorem nonNegative_fromNat (n : Nat) : NonNegative (fromNat n) := nonNegative_round n 1074

theorem NonNegative.eq_zero {a : F64} (ha : NonNegative a) (h : isZero a = true) : a = zero :=
  eq_of_sign_mag ha.2 (mag_of_isZero h)

/-- A square is at least +0: the signs of its factors agree, and no infinity meets a zero. -/
theorem nonNegative_mul_self (d : Nat) {a : F64} (h : isNaN a = false) : NonNegative (mul d a a) := by
  rcases isInf_or_isFinite h with hi | hf
  · rw [mul_of_isInf d h h (by simp [hi]), not_isZero_of_isInf hi, bne_self_eq_false]
    exact nonNegative_ofParts le_rfl
  · rw [mul_of_isFinite d hf hf, bne_self_eq_false]
    exact nonNegative_round _ _

theorem mul_self_eq_zero_of_isZero (d d' : Nat) {a : F64} (h : isZero (mul d a a) = true) : mul d' a a = zero := by
  have hn : isNaN a = false := Bool.eq_false_iff.2 fun hn => by
    simp [not_isZero_of_isNaN (isNaN_mul d (a := a) (b := a) (by simp [hn]))] at h
  refine (nonNegative_mul_self d' hn).eq_zero ?_
  rwa [SameNumber.isZero_eq (.inl (mul_sameValue d' d a a))]

theorem mul_neg_self (d : Nat) (a : F64) : mul d (neg a) (neg a) = mul d a a := by
  simp only [mul, isNaN_neg, isInf_neg, isZero_neg, sign_neg, significand_neg, scale_neg, bne_self_eq_false]

theorem NonNegative.signedSignificand {a : F64} (h : NonNegative a) : 0 ≤ signedSignificand a := by
  simp [Float64.signedSignificand, h.2]

theorem NonNegative.addFinite {a b : F64} (ha : NonNegative a) (hb : NonNegative b) : NonNegative (addFinite a b) := by
  have hsum : ¬ exactSum a b < 0 := not_lt.2 (add_nonneg (mul_nonneg ha.signedSignificand (by positivity))
    (mul_nonneg hb.signedSignificand (by positivity)))
  rw [Float64.addFinite, decide_eq_false hsum, ha.2, Bool.false_and, Bool.false_and]
  split
  · exact nonNegative_ofParts (Nat.zero_le _)
  · exact nonNegative_round _ _

/-- The sum of two words that are at least +0 is at least +0, and infinite where one of them is. -/
theorem NonNegative.add (d : Nat) {a b : F64} (ha : NonNegative a) (hb : NonNegative b) :
    NonNegative (add d a b) ∧ (isInf a = true ∨ isInf b = true → isInf (add d a b) = true) := by
  rcases isInf_or_isFinite ha.1 with hia | hfa <;> rcases isInf_or_isFinite hb.1 with hib | hfb
  · rw [add_of_isInf_isInf d hia hib, ha.2, hb.2, bne_self_eq_false]
    exact ⟨ha, fun _ => hia⟩
  · rw [add_of_isInf_isFinite d hia hfb]
    exact ⟨ha, fun _ => hia⟩
  · rw [add_of_isFinite_isInf d hfa hib]
    exact ⟨hb, fun _ => hib⟩
  · rw [add_of_isFinite d hfa hfb]
    exact ⟨ha.addFinite hb, fun h => by simp [not_isInf_of_isFinite, hfa, hfb] at h⟩

/-! ### The square root -/

theorem isNaN_sqrt (d : Nat) {a : F64} (h : isNaN a = true) : isNaN (sqrt d a) = true := by
  rw [sqrt, if_pos h, isNaN_nan]

theorem sqrt_of_isZero (d : Nat) {a : F64} (h : isZero a = true) : sqrt d a = a := by
  simp [sqrt, not_isNaN_of_isZero h, h]

theorem NonNegative.sqrt_of_isInf (d : Nat) {a : F64} (ha : NonNegative a) (h : isInf a = true) : sqrt d a = a := by
  simp [sqrt, ha.1, ha.2, h]

theorem NonNegative.sqrt_of_isFinite (d : Nat) {a : F64} (ha : NonNegative a) (h : isFinite a = true)
    (h0 : isZero a = false) :
    sqrt d a = round false (stickyRoot (significand a * 2 ^ (scale a % 2) * 2 ^ 110))
      ((scale a / 2 : Nat) - 55 - 1 + 537 : Int) := by
  simp [sqrt, ha.1, ha.2, not_isInf_of_isFinite h, h0]

theorem NonNegative.sqrt (d : Nat) {a : F64} (ha : NonNegative a) : NonNegative (sqrt d a) := by
  cases h0 : isZero a
  case true => rwa [sqrt_of_isZero d h0]
  case false =>
    rcases isInf_or_isFinite ha.1 with hi | hf
    · rwa [ha.sqrt_of_isInf d hi]
    · rw [ha.sqrt_of_isFinite d hf h0]
      exact nonNegative_round _ _

end Sys2Proof.Machine.Float64

namespace Sys2Proof.Machine

/-! ### MAG.E -/

theorem magE_coreNum (d : Nat) (re im : F64) :
    magE coreNum d re im =
      Float64.sqrt (d + 3) (Float64.add (d + 2) (Float64.mul d re re) (Float64.mul (d + 1) im im)) := rfl

theorem isNaN_magE (d : Nat) {re im : F64} (h : Float64.isNaN re = true ∨ Float64.isNaN im = true) :
    Float64.isNaN (magE coreNum d re im) = true := by
  have hsquare : ∀ k {a : F64}, Float64.isNaN a = true → Float64.isNaN (Float64.mul k a a) = true := fun k _ ha =>
    Float64.isNaN_mul k (by simp [ha])
  refine Float64.isNaN_sqrt _ (Float64.isNaN_add _ ?_)
  rw [Bool.or_eq_true]
  exact h.imp (hsquare d) (hsquare (d + 1))

/-- Without a NaN, the squares, their sum and the root of it are at least +0, and an infinite square stays infinite. -/
theorem magE_nonNegative (d : Nat) {re im : F64} (hre : Float64.isNaN re = false) (him : Float64.isNaN im = false) :
    Float64.NonNegative (magE coreNum d re im) ∧
      (Float64.isInf (Float64.mul d re re) = true ∨ Float64.isInf (Float64.mul (d + 1) im im) = true →
        Float64.isInf (magE coreNum d re im) = true) := by
  obtain ⟨hsum, hinf⟩ :=
    (Float64.nonNegative_mul_self d hre).add (d + 2) (Float64.nonNegative_mul_self (d + 1) him)
  exact ⟨hsum.sqrt _, fun h => by rw [magE_coreNum, hsum.sqrt_of_isInf _ (hinf h), hinf h]⟩

theorem isNaN_magE_iff (d : Nat) (re im : F64) :
    Float64.isNaN (magE coreNum d re im) = true ↔ Float64.isNaN re = true ∨ Float64.isNaN im = true := by
  refine ⟨fun h => ?_, isNaN_magE d⟩
  by_contra hn
  obtain ⟨hre, him⟩ : Float64.isNaN re = false ∧ Float64.isNaN im = false := by simpa using hn
  simp [(magE_nonNegative d hre him).1.1] at h

theorem not_isNaN_of_magE {d : Nat} {re im : F64} (h : Float64.isNaN (magE coreNum d re im) = false) :
    Float64.isNaN re = false ∧ Float64.isNaN im = false := by
  simpa [h] using isNaN_magE_iff d re im

theorem magE_of_isZero_squares (d : Nat) {re im : F64} (hre : Float64.isZero (Float64.mul d re re) = true)
    (him : Float64.isZero (Float64.mul d im im) = true) : magE coreNum d re im = Float64.zero := by
  have hsum : Float64.add (d + 2) Float64.zero Float64.zero = Float64.zero :=
    (Float64.add_zero_eq _ (by decide)).trans (by decide)
  rw [magE_coreNum, Float64.mul_self_eq_zero_of_isZero d d hre, Float64.mul_self_eq_zero_of_isZero d (d + 1) him, hsum,
    Float64.sqrt_of_isZero _ (by decide)]

theorem magE_neg_left (d : Nat) (re im : F64) : magE coreNum d (Float64.neg re) im = magE coreNum d re im := by
  rw [magE_coreNum, Float64.mul_neg_self, magE_coreNum]

theorem magE_neg_right (d : Nat) (re im : F64) : magE coreNum d re (Float64.neg im) = magE coreNum d re im := by
  rw [magE_coreNum, Float64.mul_neg_self, magE_coreNum]

/-- 3·3 + 4·4 = 25 and its root are exact (44 R150, the example). -/
theorem magE_three_four (d : Nat) : magE coreNum d (Float64.fromNat 3) (Float64.fromNat 4) = Float64.fromNat 5 := by
  have hnine : Float64.mul d (Float64.fromNat 3) (Float64.fromNat 3) = Float64.fromNat 9 :=
    (Float64.mul_of_isFinite d (by decide +kernel) (by decide +kernel)).trans (by decide +kernel)
  have hsixteen : Float64.mul (d + 1) (Float64.fromNat 4) (Float64.fromNat 4) = Float64.fromNat 16 :=
    (Float64.mul_of_isFinite (d + 1) (by decide +kernel) (by decide +kernel)).trans (by decide +kernel)
  have hsum : Float64.add (d + 2) (Float64.fromNat 9) (Float64.fromNat 16) = Float64.fromNat 25 :=
    (Float64.add_of_isFinite (d + 2) (by decide +kernel) (by decide +kernel)).trans (by decide +kernel)
  rw [magE_coreNum, hnine, hsixteen, hsum,
    (Float64.nonNegative_fromNat 25).sqrt_of_isFinite (d + 3) (by decide +kernel) (by decide +kernel)]
  decide +kernel

/-- Settles O52: where no input is a NaN, each intermediate result is at least +0, and the signs of the inputs are lost
in their squares. -/
theorem magnitudeProperties : Obligations.MagnitudeProperties := by
  intro d re im mg
  refine ⟨magE_coreNum d re im, isNaN_magE_iff d re im, fun hn => ?sign, fun hn hinf => ?overflow,
    magE_of_isZero_squares d, .inl (magE_neg_left d re im), .inl (magE_neg_right d re im), magE_three_four d⟩
  case sign =>
    obtain ⟨hre, him⟩ := not_isNaN_of_magE hn
    exact (magE_nonNegative d hre him).1.2
  case overflow =>
    obtain ⟨hre, him⟩ := not_isNaN_of_magE hn
    have him2 := Float64.SameNumber.isInf_eq (.inl (Float64.mul_sameValue (d + 1) d im im))
    exact (magE_nonNegative d hre him).2 (by rwa [him2])

end Sys2Proof.Machine
end

section
/-! PROOFS. Which legal commands are refused, with which kind and in which priority (60_exceptions R171, R172, R176). -/

namespace Sys2Proof.Machine

/-! ### The length tests, command by command (60_exceptions R171). -/

@[simp] theorem lengthInvalid_fftFwd_iff (n : Nat) : lengthInvalid .fftFwd n = true ↔ n < 2 ∨ ¬∃ m, n = 2 ^ m := by
  simp [lengthInvalid, ← ispow2_iff]

@[simp] theorem lengthInvalid_fftInv_iff (n : Nat) : lengthInvalid .fftInv n = true ↔ n < 2 ∨ ¬∃ m, n = 2 ^ m :=
  lengthInvalid_fftFwd_iff n

@[simp] theorem lengthInvalid_fht_iff (n : Nat) : lengthInvalid .fht n = true ↔ n % 2 = 1 ∨ ¬∃ m, n = 2 ^ m := by
  simp [lengthInvalid, ← ispow2_iff]

@[simp] theorem lengthInvalid_mag (n : Nat) : lengthInvalid .mag n = false := rfl

@[simp] theorem lengthInvalid_phase (n : Nat) : lengthInvalid .phase n = false := rfl

/-! ### Validation: the length tests come before the capacity test (60_exceptions R176). -/

section Validation

variable {i : Instr} {n : Nat}

theorem validateLength_of_lengthInvalid (h : lengthInvalid i n = true) :
    validateLength i n = some .invalidLength := by simp [validateLength, h]

theorem validateLength_of_nmax_lt (h : ¬lengthInvalid i n = true) (hn : Config.nmax < n) :
    validateLength i n = some .resourceExhausted := by simp [validateLength, h, hn]

theorem validateLength_of_le_nmax (h : ¬lengthInvalid i n = true) (hn : n ≤ Config.nmax) :
    validateLength i n = none := by simp [validateLength, h, hn.not_gt]

end Validation

/-! ### A command issued to a core that is not BUSY. -/

theorem State.refusedFrame.not_busy {w : Word} {k : ErrorKind} {s t : State} (h : s.refusedFrame w k t) :
    t.busy = false := by simp [State.busy, h.status]

theorem exec_refused {i : Instr} {s : State} {k : ErrorKind} (hb : s.busy = false)
    (hk : validateLength i s.len.toNat = some k) :
    ∃ t, exec i s = .next t ∧ s.refusedFrame (encode i) k t :=
  ⟨(s.accept (encode i)).refuse k, by simp [exec_eq, runCommand, hb, conclude_refused, hk],
    refusedFrame_refuse_accept (encode i) k s⟩

/-- A refusal leaves LEN and ends BUSY, so the command issued again meets the same tests. -/
theorem exec_refused_again {i : Instr} {s t : State} {k : ErrorKind} (hk : validateLength i s.len.toNat = some k)
    (ht : s.refusedFrame (encode i) k t) : ∃ u, exec i t = .next u ∧ t.refusedFrame (encode i) k u :=
  exec_refused ht.not_busy (by rw [ht.len, hk])

theorem exec_completed {i : Instr} {s : State} (hb : s.busy = false) (hv : validateLength i s.len.toNat = none) :
    exec i s = .next (completedState i s) := by
  simp [exec_eq, runCommand, hb, conclude_completed, hv, completedState]

/-- Settles O7: each clause is a value of the validation, and a refused core validates the command issued again alike. -/
theorem refusedCommandsAndTheirKinds : Obligations.RefusedCommandsAndTheirKinds := by
  intro i s hb n invalid
  have hinvalid : invalid ↔ lengthInvalid i n = true := by
    cases i with
    | fftFwd => exact (lengthInvalid_fftFwd_iff n).symm
    | fftInv => exact (lengthInvalid_fftInv_iff n).symm
    | fht => exact (lengthInvalid_fht_iff n).symm
    | mag => exact iff_of_false id (by simp)
    | phase => exact iff_of_false id (by simp)
  rw [hinvalid]
  refine ⟨fun hlen => ?length, fun hlen hn => ?capacity, fun hlen hn => ?done, fun w hw => ?illegal⟩
  case length => exact exec_refused hb (validateLength_of_lengthInvalid hlen)
  case capacity =>
    have hk := validateLength_of_nmax_lt hlen hn
    obtain ⟨t, hexec, ht⟩ := exec_refused hb hk
    exact ⟨t, hexec, ht, exec_refused_again hk ht⟩
  case done => exact ⟨_, exec_completed hb (validateLength_of_le_nmax hlen hn), rfl⟩
  case illegal =>
    obtain ⟨t, hissue, ht, -⟩ := (illegalWordsAreRefused w).2 s hw hb
    exact ⟨t, hissue, ht⟩

end Sys2Proof.Machine
end

section
/-! PROOFS. The units change memory by MemWrite(DST, …) alone (20_memory R62): what memory holds after any of their
micro-operations, loops and procedures comes of it by stores, whatever the environment. -/

namespace Sys2Proof.Machine

section Stores

variable {M F : Type} {e : Env M F}

/-- The second memory comes of the first by stores: any number, in any lanes of any elements, in range or not. -/
def Env.Stores (e : Env M F) : M → M → Prop := Relation.ReflTransGen fun m m' => ∃ k l x, m' = e.put m k l x

theorem Env.Stores.refl (e : Env M F) (m : M) : e.Stores m m := Relation.ReflTransGen.refl

theorem Env.Stores.trans {m m' m'' : M} (h : e.Stores m m') (h' : e.Stores m' m'') : e.Stores m m'' :=
  Relation.ReflTransGen.trans h h'

theorem Env.stores_put (e : Env M F) (m : M) (k : Nat) (l : Lane) (x : F) : e.Stores m (e.put m k l x) :=
  Relation.ReflTransGen.single ⟨k, l, x, rfl⟩

/-- What every single store keeps, stores keep. -/
theorem Env.Stores.keeps {P : M → Prop} (hput : ∀ m k l x, P m → P (e.put m k l x)) {m m' : M} (h : e.Stores m m')
    (hm : P m) : P m' := by
  induction h with
  | refl => exact hm
  | tail _ hstore ih =>
    obtain ⟨k, l, x, rfl⟩ := hstore
    exact hput _ k l x ih

/-- A loop whose iterations only store only stores. -/
theorem Env.stores_forStride {stride : Nat} {body : Nat → Work M F → Work M F}
    (h : ∀ i w, e.Stores w.mem (body i w).mem) (count i : Nat) (w : Work M F) :
    e.Stores w.mem (forStride stride body count i w).mem :=
  forStride_keeps (P := fun v => e.Stores w.mem v.mem) (fun i v hv => hv.trans (h i v)) count i w (.refl e _)

variable (e) (w : Work M F)

/-! ### The micro-operations on registers only -/

@[simp] theorem twSetup_mem (num : Num F) (dir : Direction) (s : Nat) : (twSetup num dir s w).mem = w.mem := rfl

@[simp] theorem twInit_mem (num : Num F) : (twInit num w).mem = w.mem := rfl

@[simp] theorem twAdv_mem (num : Num F) : (twAdv num w).mem = w.mem := rfl

@[simp] theorem tableEntry_mem (num : Num F) (n k : Nat) : (tableEntry num n k w).mem = w.mem := rfl

@[simp] theorem normRoot_mem (num : Num F) (n : Nat) : (normRoot num n w).mem = w.mem := rfl

/-! ### The micro-operations that store -/

theorem stores_put_pair (k : Nat) (re im : F) : e.Stores w.mem (w.put e k re im).mem :=
  (e.stores_put w.mem k .re re).trans (e.stores_put _ k .im im)

theorem stores_copyElem (real : Bool) (k : Nat) : e.Stores w.mem (copyElem e real k w).mem := stores_put_pair e w k _ _

theorem stores_swap (i j : Nat) : e.Stores w.mem (swap e i j w).mem :=
  (stores_put_pair e w i _ _).trans (stores_put_pair e _ j _ _)

theorem stores_revVisit (m i : Nat) : e.Stores w.mem (revVisit e m i w).mem := by
  simp only [revVisit]
  split
  · exact stores_swap e w i _
  · exact .refl e _

theorem stores_bfly (p q : Nat) : e.Stores w.mem (bfly e p q w).mem :=
  (stores_put_pair e w q _ _).trans (stores_put_pair e _ p _ _)

theorem stores_stagePair (s p : Nat) : e.Stores w.mem (stagePair e s p w).mem := stores_bfly e w p (p + s)

theorem stores_scaleElem (n k : Nat) : e.Stores w.mem (scaleElem e n k w).mem := stores_put_pair e w k _ _

theorem stores_htRot (x y t : Nat) : e.Stores w.mem (htRot e x y t w).mem :=
  (e.stores_put w.mem x .re _).trans (e.stores_put _ y .re _)

theorem stores_ladderRot (n level g i j : Nat) : e.Stores w.mem (ladderRot e n level g i j w).mem :=
  stores_htRot e w _ _ _

theorem stores_htAddSub (x y : Nat) : e.Stores w.mem (htAddSub e x y w).mem :=
  (e.stores_put w.mem x .re _).trans (e.stores_put _ y .re _)

theorem stores_ladderAddSub (level g i : Nat) : e.Stores w.mem (ladderAddSub e level g i w).mem :=
  stores_htAddSub e { w with regs := { w.regs with i := i } } _ _

theorem stores_normElem (k : Nat) : e.Stores w.mem (normElem e k w).mem := e.stores_put w.mem k .re _

theorem stores_elementwiseElem (f : Nat → F → F → F) (cost k : Nat) :
    e.Stores w.mem (elementwiseElem e f cost k w).mem := stores_put_pair e w k _ _

/-! ### The loops of the units -/

theorem stores_copyIn (real : Bool) (n : Nat) : e.Stores w.mem (copyIn e real n w).mem :=
  Env.stores_forStride (fun k v => stores_copyElem e v real k) n 0 w

theorem stores_permute (n : Nat) : e.Stores w.mem (permute e n w).mem :=
  Env.stores_forStride (fun i v => stores_revVisit e v _ i) n 0 w

theorem stores_stageGroup (n s g : Nat) : e.Stores w.mem (stageGroup e n s g w).mem :=
  Env.stores_forStride (fun p v => stores_stagePair e v s p) _ g (stageGroupEnter g w)

theorem stores_stage (dir : Direction) (n s : Nat) : e.Stores w.mem (stage e dir n s w).mem :=
  Env.stores_forStride (fun g v => stores_stageGroup e v n s g) s 0 (twInit e.num (twSetup e.num dir s w))

theorem stores_fftCore (dir : Direction) (n : Nat) : e.Stores w.mem (fftCore e dir n w).mem :=
  Env.stores_forStride (fun t v => stores_stage e v dir n (2 ^ t)) _ 0 (setStep 1 w)

theorem stores_scaleN (n : Nat) : e.Stores w.mem (scaleN e n w).mem :=
  Env.stores_forStride (fun k v => stores_scaleElem e v n k) n 0 w

@[simp] theorem hartleyTable_mem (num : Num F) (n : Nat) : (hartleyTable num n w).mem = w.mem :=
  forStride_keeps (P := fun v => v.mem = w.mem) (fun k v hv => (tableEntry_mem v num n k).trans hv) (n / 2) 0 w rfl

theorem stores_ladderGroup (n level g : Nat) : e.Stores w.mem (ladderGroup e n level g w).mem :=
  (Env.stores_forStride (fun i v => stores_ladderRot e v n level g i _) _ 1 (ladderGroupEnter level w)).trans
    (Env.stores_forStride (fun i v => stores_ladderAddSub e v level g i) (level / 2) 0 _)

theorem stores_ladderLevel (n level : Nat) : e.Stores w.mem (ladderLevel e n level w).mem :=
  Env.stores_forStride (fun g v => stores_ladderGroup e v n level g) _ 0 (levelEnter w)

theorem stores_ladder (n : Nat) : e.Stores w.mem (ladder e n w).mem :=
  Env.stores_forStride (fun t v => stores_ladderLevel e v n (2 ^ (t + 1))) _ 0 (ladderEnter n w)

theorem stores_hartleyNorm (n : Nat) : e.Stores w.mem (hartleyNorm e n w).mem :=
  Env.stores_forStride (fun k v => stores_normElem e v k) n 0 (normRoot e.num n w)

end Stores

/-- The procedure of every command only stores. -/
theorem stores_procedureOf (i : Instr) (e : Env Memory F64) (n : Nat) (w : Work Memory F64) :
    e.Stores w.mem (procedureOf i e n w).mem := by
  have hcopied (real : Bool) : e.Stores w.mem (permute e n (copyIn e real n w)).mem :=
    (stores_copyIn e w real n).trans (stores_permute e _ n)
  cases i with
  | fftFwd => exact (hcopied false).trans (stores_fftCore e _ .forward n)
  | fftInv => exact ((hcopied false).trans (stores_fftCore e _ .inverse n)).trans (stores_scaleN e _ n)
  | fht =>
    have htable := hartleyTable_mem (permute e n (copyIn e true n w)) e.num n
    have hladder := stores_ladder e (hartleyTable e.num n (permute e n (copyIn e true n w))) n
    rw [htable] at hladder
    exact ((hcopied true).trans hladder).trans (stores_hartleyNorm e _ n)
  | mag => exact Env.stores_forStride (fun k v => stores_elementwiseElem e v _ _ k) n 0 w
  | phase => exact Env.stores_forStride (fun k v => stores_elementwiseElem e v _ _ k) n 0 w

end Sys2Proof.Machine
end

section
/-! PROOFS. LEN and SRC are the caller's (70_reset R194): no turn of the sequencer and no command changes either, a host
transaction changes the location it writes at most, and so for every number of steps. No invariant is used: the
sequencer may stand anywhere and N_ACT may be above NMAX, since every store of a unit lies above SRC's window. -/

namespace Sys2Proof.Machine

/-! ### Stores to DST leave SRC -/

/-- Every lane of SRC holds the same in two memories, a value or none. -/
def Memory.sameSrc (m m' : Memory) : Prop :=
  ∀ k l, k < Config.nmax → m'.readLane (Memory.offset .src k l) = m.readLane (Memory.offset .src k l)

theorem Memory.sameSrc.refl (m : Memory) : m.sameSrc m := fun _ _ _ => rfl

theorem Memory.sameSrc.trans {m m' m'' : Memory} (h : m.sameSrc m') (h' : m'.sameSrc m'') : m.sameSrc m'' :=
  fun k l hk => (h' k l hk).trans (h k l hk)

/-- A lane of DST lies above every lane of SRC, whatever its index. -/
theorem Memory.offset_src_add_le_offset_dst {k : Nat} (hk : k < Config.nmax) (l : Lane) (k' : Nat) (l' : Lane) :
    Memory.offset .src k l + 8 ≤ Memory.offset .dst k' l' := by
  have hl := laneOffset_le l
  rw [Memory.nmax_eq] at hk
  simp only [Memory.offset, Memory.window, Memory.bufBytes_eq]
  omega

theorem Memory.sameSrc_dropDst (m : Memory) : m.sameSrc m.dropDst := fun k l hk =>
  Memory.readLane_congr fun j hj => by rw [Memory.readByte_dropDst, Memory.src_not_in_dst l hk hj]; rfl

theorem Env.Stores.sameSrc {num : Num F64} {srcSeed dstSeed : Nat} {m m' : Memory}
    (h : (bufferEnv num srcSeed dstSeed).Stores m m') : m.sameSrc m' :=
  h.keeps (P := m.sameSrc) (fun m' k' l' x hm => hm.trans fun _ l hk =>
    Memory.readLane_writeLane_disjoint m' x (.inl (Memory.offset_src_add_le_offset_dst hk l k' l'))) (.refl m)

/-! ### What no operation of the core changes -/

/-- LEN, SRC with its ghost bits and the values of its unwritten lanes, and the events to come are the same in two
states. -/
structure State.callerFrame (s t : State) : Prop where
  len     : t.len = s.len
  srcSeed : t.srcSeed = s.srcSeed
  events  : t.events = s.events
  src     : s.mem.sameSrc t.mem

namespace State.callerFrame

variable {s t : State}

theorem refl (s : State) : s.callerFrame s := ⟨rfl, rfl, rfl, .refl _⟩

theorem goto (h : s.callerFrame t) (q : Seq) : s.callerFrame (t.goto q) := ⟨h.len, h.srcSeed, h.events, h.src⟩

theorem accept (h : s.callerFrame t) (w : Word) : s.callerFrame (t.accept w) := ⟨h.len, h.srcSeed, h.events, h.src⟩

theorem refuse (h : s.callerFrame t) (k : ErrorKind) : s.callerFrame (t.refuse k) :=
  ⟨h.len, h.srcSeed, h.events, h.src⟩

theorem complete (h : s.callerFrame t) : s.callerFrame t.complete := ⟨h.len, h.srcSeed, h.events, h.src⟩

theorem answer (h : s.callerFrame t) (r : Response) : s.callerFrame (t.answer r) := ⟨h.len, h.srcSeed, h.events, h.src⟩

theorem begin (h : s.callerFrame t) : s.callerFrame t.begin :=
  ⟨h.len, h.srcSeed, h.events, h.src.trans (Memory.sameSrc_dropDst t.mem)⟩

theorem withWork (h : s.callerFrame t) {w : Work Memory F64} (hw : t.env.Stores t.work.mem w.mem) :
    s.callerFrame (t.withWork w) := ⟨h.len, h.srcSeed, h.events, h.src.trans hw.sameSrc⟩

end State.callerFrame

/-! ### Turns and commands -/

theorem callerFrame_ite {p : Prop} [Decidable p] {s t u : State} (ht : s.callerFrame t) (hu : s.callerFrame u) :
    s.callerFrame (if p then t else u) := by
  split <;> assumption

/-- A micro-operation that only stores, with the move to the next position. -/
theorem callerFrame_microOp {s : State} {w : Work Memory F64} (hw : s.env.Stores s.work.mem w.mem) (q : Seq) :
    s.callerFrame ((s.withWork w).goto q) := ((State.callerFrame.refl s).withWork hw).goto q

@[simp] theorem stageGroupTail_mem (s g : Nat) (w : Work Memory F64) : (stageGroupTail s g w).mem = w.mem := by
  rw [stageGroupTail]
  split <;> rfl

@[simp] theorem addSubTail_mem (n level g i : Nat) (w : Work Memory F64) : (addSubTail n level g i w).mem = w.mem := by
  simp only [addSubTail]
  split_ifs <;> rfl

theorem callerFrame_validateTurn (s : State) : s.callerFrame s.validateTurn := by
  simp only [State.validateTurn]
  split
  · exact (State.callerFrame.refl s).refuse _
  · exact (State.callerFrame.refl s).begin.goto _

theorem callerFrame_stageTurn (s : State) (st g p : Nat) (phase : StagePhase) :
    s.callerFrame (s.stageTurn st g p phase) := by
  cases phase with
  | setup => exact callerFrame_microOp (.refl s.env s.mem) _
  | pair => exact callerFrame_microOp (stores_stagePair s.env s.work st p) _
  | advance =>
    refine callerFrame_microOp ?_ _
    rw [stageGroupTail_mem]
    exact .refl s.env s.mem

/-- A turn stores to DST at most, at any position and whatever N_ACT. -/
theorem callerFrame_turn (s : State) : s.callerFrame s.turn := by
  have hmove (q : Seq) : s.callerFrame (s.goto q) := (State.callerFrame.refl s).goto q
  unfold State.turn
  cases s.seq with
  | idle => exact .refl s
  | validate => exact callerFrame_validateTurn s
  | copyIn k =>
    refine callerFrame_ite (callerFrame_microOp ?_ _) (hmove _)
    exact stores_copyElem s.env s.work _ k
  | bitRev i =>
    refine callerFrame_ite (callerFrame_microOp ?_ _) (callerFrame_ite (callerFrame_microOp ?_ _) (hmove _))
    · exact stores_revVisit s.env s.work _ i
    · exact .refl s.env s.mem
  | fftStage st g p phase => exact callerFrame_stageTurn s st g p phase
  | scaleN k =>
    exact callerFrame_ite (callerFrame_microOp (stores_scaleElem s.env s.work _ k) _) (hmove _)
  | htTable k =>
    exact callerFrame_ite (callerFrame_microOp (.refl s.env s.mem) _) (callerFrame_microOp (.refl s.env s.mem) _)
  | htRot level g i j => exact callerFrame_microOp (stores_ladderRot s.env s.work _ level g i j) _
  | htAddSub level g i =>
    refine callerFrame_microOp ?_ _
    rw [addSubTail_mem]
    exact stores_ladderAddSub s.env s.work level g i
  | htNorm k =>
    refine callerFrame_ite (callerFrame_microOp ?_ _) (hmove _)
    split
    · exact stores_normElem s.env (normRoot s.env.num _ s.work) k
    · exact stores_normElem s.env s.work k
  | elementwise k =>
    refine callerFrame_ite (callerFrame_microOp ?_ _) (hmove _)
    split <;> exact stores_elementwiseElem s.env s.work _ _ k
  | complete => exact (State.callerFrame.refl s).complete

theorem callerFrame_completedState (i : Instr) (s : State) : s.callerFrame (completedState i s) :=
  (((State.callerFrame.refl s).accept (encode i)).begin.withWork (stores_procedureOf i _ _ _)).complete

theorem callerFrame_exec {i : Instr} {s t : State} (h : exec i s = .next t) : s.callerFrame t := by
  obtain ⟨-, ht⟩ | ⟨k, -, -, ht⟩ | ⟨-, -, ht⟩ := exec_cases h
  · obtain rfl := Host.Outcome.next.inj ht
    exact .refl _
  · obtain rfl := Host.Outcome.next.inj ht
    exact ((State.callerFrame.refl s).accept _).refuse k
  · obtain rfl := Host.Outcome.next.inj ht
    exact callerFrame_completedState i s

theorem callerFrame_runIllegal {w : Word} {s t : State} (h : runIllegal w s = .next t) : s.callerFrame t := by
  obtain rfl := Host.Outcome.next.inj h
  split
  · exact .refl s
  · exact ((State.callerFrame.refl s).accept w).refuse _

theorem callerFrame_issue {w : Word} {s t : State} (h : issue w s = .next t) : s.callerFrame t := by
  rw [issue] at h
  split at h
  · exact callerFrame_exec h
  · exact callerFrame_runIllegal h

/-! ### Host transactions -/

theorem callerFrame_noteRead (s : State) (sp : Space) (k : Nat) : s.callerFrame (s.noteRead sp k) := by
  rw [s.noteRead_frame sp k]
  exact ⟨rfl, rfl, rfl, .refl _⟩

/-- All that a host transaction can do to LEN, SRC and the events: nothing, a write of LEN, or a write of one lane of
SRC. -/
inductive State.hostEffect (s : State) (tx : HostTx) (t : State) : Prop
  | frame (h : s.callerFrame t)
  | len (v : LenWord) (hw : writesLen (.host tx) = true) (ht : t = { s with len := v, resp := .written })
  | lane (k : Nat) (l : Lane) (x : F64) (hk : k < Config.nmax) (hw : writesSrc k l (.host tx) = true)
      (ht : t = { s with mem := s.mem.writeLane (Memory.offset .src k l) x, resp := .written })

theorem hostEffect_writeReg {tx : HostTx} {r : Nat} (hw : writesLen (.host tx) = (r == 1)) (s : State) (v : Word) :
    s.hostEffect tx ((s.writeReg r v).answer .written) := by
  have hrefl := State.callerFrame.refl s
  cases hb : s.busy with
  | true =>
    rw [State.writeReg_of_busy hb]
    exact .frame (hrefl.answer _)
  | false =>
    obtain rfl | rfl | hr : r = 0 ∨ r = 1 ∨ 2 ≤ r := by omega
    · rw [State.writeReg_cmd hb]
      exact .frame ((hrefl.accept v).answer _)
    · rw [State.writeReg_len hb]
      exact .len v hw rfl
    · rw [State.writeReg_of_two_le hb hr]
      exact .frame (hrefl.answer _)

theorem hostEffect_writeBuf {tx : HostTx} {k : Nat} {l : Lane} (hw : writesSrc k l (.host tx) = true) (s : State)
    (x : F64) : s.hostEffect tx ((s.writeBuf k l x).answer .written) := by
  have hrefl := State.callerFrame.refl s
  cases hb : s.busy with
  | true =>
    rw [State.writeBuf_of_busy hb]
    exact .frame (hrefl.answer _)
  | false =>
    obtain hk | hk := Nat.lt_or_ge k Config.nmax
    · rw [State.writeBuf_of_lt hb hk]
      exact .lane k l x hk hw rfl
    · rw [s.writeBuf_of_nmax_le hk]
      exact .frame (hrefl.answer _)

theorem hostEffect_transact (tx : HostTx) (s : State) : s.hostEffect tx (s.transact tx) := by
  have hanswer (r : Response) : s.callerFrame (s.answer r) := (State.callerFrame.refl s).answer r
  cases tx with
  | writeReg r v => exact hostEffect_writeReg rfl s v
  | readReg r => exact .frame (hanswer _)
  | writeBuf k l x => exact hostEffect_writeBuf (by simp [writesSrc]) s x
  | readBuf sp k l => exact .frame ((callerFrame_noteRead s sp k).answer _)
  | busWrite width addr v =>
    rw [State.transact, State.busWrite]
    split
    next => exact .frame (hanswer _)
    next r hslot => exact hostEffect_writeReg (by simp [writesLen, slotAt, hslot]) s _
    next k l hslot => exact hostEffect_writeBuf (by simp [writesSrc, slotAt, hslot]) s v
    next => exact .frame (hanswer _)
    next => exact .frame (hanswer _)
  | busRead width addr =>
    rw [State.transact, State.busRead]
    split
    next => exact .frame (hanswer _)
    next => exact .frame (hanswer _)
    next sp k l _ => exact .frame ((callerFrame_noteRead s sp k).answer _)
    next => exact .frame (hanswer _)

/-! ### One event -/

/-- A lane of SRC reads the same, with the same ghost bit, in two states. -/
def State.sameSrcLane (k : Nat) (l : Lane) (s t : State) : Prop := t.src k l = s.src k l ∧ t.written k l = s.written k l

theorem State.sameSrcLane.trans {k : Nat} {l : Lane} {s t u : State} (h : State.sameSrcLane k l s t)
    (h' : State.sameSrcLane k l t u) : State.sameSrcLane k l s u := ⟨h'.1.trans h.1, h'.2.trans h.2⟩

theorem State.sameSrcLane.of_readLane {k : Nat} {l : Lane} {s t : State} (hseed : t.srcSeed = s.srcSeed)
    (hmem : t.mem.readLane (Memory.offset .src k l) = s.mem.readLane (Memory.offset .src k l)) :
    State.sameSrcLane k l s t :=
  ⟨by rw [State.src, State.src, laneValue, laneValue, hseed, hmem], by rw [State.written, State.written, hmem]⟩

theorem State.callerFrame.sameSrcLane {s t : State} (h : s.callerFrame t) {k : Nat} (hk : k < Config.nmax) (l : Lane) :
    State.sameSrcLane k l s t := .of_readLane h.srcSeed (h.src k l hk)

theorem transact_events (tx : HostTx) (s : State) : (s.transact tx).events = s.events := by
  cases hostEffect_transact tx s with
  | frame h => exact h.events
  | len v _ ht => rw [ht]
  | lane k l x _ _ ht => rw [ht]

theorem transact_len {tx : HostTx} (hw : writesLen (.host tx) = false) (s : State) : (s.transact tx).len = s.len := by
  cases hostEffect_transact tx s with
  | frame h => exact h.len
  | len v hw' _ => simp [hw'] at hw
  | lane k l x _ _ ht => rw [ht]

theorem transact_sameSrcLane {tx : HostTx} {k : Nat} (hk : k < Config.nmax) {l : Lane}
    (hw : writesSrc k l (.host tx) = false) (s : State) : State.sameSrcLane k l s (s.transact tx) := by
  cases hostEffect_transact tx s with
  | frame h => exact h.sameSrcLane hk l
  | len v _ ht => exact ht ▸ ⟨rfl, rfl⟩
  | lane k' l' x hk' hw' ht =>
    have hother : ¬(Space.src = .src ∧ k = k' ∧ l = l') := by
      rintro ⟨-, rfl, rfl⟩
      simp [hw'] at hw
    rw [ht]
    exact .of_readLane rfl (Memory.readLane_writeLane_other s.mem x hk' hk hother)

theorem happen_events {ev : Event} {s t : State} (h : happen ev s = .next t) : t.events = s.events := by
  cases ev with
  | host tx => exact Host.Outcome.next.inj h ▸ transact_events tx s
  | turn => exact Host.Outcome.next.inj h ▸ (callerFrame_turn s).events
  | command w => exact (callerFrame_issue h).events
  | reset presented => exact Host.Outcome.next.inj h ▸ s.afterReset_events

theorem happen_len {ev : Event} {s t : State} (h : happen ev s = .next t) (hr : isReset ev = false)
    (hw : writesLen ev = false) : t.len = s.len := by
  cases ev with
  | host tx => exact Host.Outcome.next.inj h ▸ transact_len hw s
  | turn => exact Host.Outcome.next.inj h ▸ (callerFrame_turn s).len
  | command w => exact (callerFrame_issue h).len
  | reset presented => contradiction

theorem happen_sameSrcLane {ev : Event} {s t : State} {k : Nat} (hk : k < Config.nmax) {l : Lane}
    (h : happen ev s = .next t) (hr : isReset ev = false) (hw : writesSrc k l ev = false) :
    State.sameSrcLane k l s t := by
  cases ev with
  | host tx => exact Host.Outcome.next.inj h ▸ transact_sameSrcLane hk hw s
  | turn => exact Host.Outcome.next.inj h ▸ (callerFrame_turn s).sameSrcLane hk l
  | command w => exact (callerFrame_issue (s := s.answer .written) h).sameSrcLane hk l
  | reset presented => contradiction

/-! ### Any number of steps -/

/-- What a step can do: a turn when no event is to come, else the first event. -/
theorem step_cases {s t : State} (h : step s = .next t) :
    (s.events = [] ∧ t = s.turn) ∨
    ∃ ev evs, s.events = ev :: evs ∧ happen ev { s with events := evs } = .next t := by
  cases hev : s.events with
  | nil => exact .inl ⟨rfl, (Host.Outcome.next.inj ((step_nil hev).symm.trans h)).symm⟩
  | cons ev evs => exact .inr ⟨ev, evs, rfl, (step_cons hev).symm.trans h⟩

/-- A step leaves events of those that were to come. -/
theorem step_events_subset {s t : State} (h : step s = .next t) : t.events ⊆ s.events := by
  obtain ⟨-, rfl⟩ | ⟨ev, evs, hev, hhappen⟩ := step_cases h
  · rw [(callerFrame_turn s).events]
    exact List.Subset.refl _
  · rw [happen_events hhappen, hev]
    exact List.subset_cons_self ev evs

theorem run_succ {n : Nat} {s u : State} (h : Host.Core.run core (n + 1) s = .next u) :
    ∃ t, step s = .next t ∧ Host.Core.run core n t = .next u := by
  cases hstep : step s with
  | next t =>
    have hcore : core.step s = .next t := hstep
    exact ⟨t, rfl, by simpa only [Host.Core.run, hcore] using h⟩
  | fault r => cases r
  | refused r =>
    have hcore : core.step s = .refused r := hstep
    simp only [Host.Core.run, hcore] at h
    contradiction

section Run

variable {R : State → State → Prop} {Q : Event → Prop}

/-- What a turn and every event of a kind keep, a step keeps whose events are of that kind. -/
theorem step_keeps (hturn : ∀ s, R s s.turn)
    (hhappen : ∀ s ev evs t, Q ev → happen ev { s with events := evs } = .next t → R s t) {s t : State}
    (hQ : ∀ ev ∈ s.events, Q ev) (h : step s = .next t) : R s t := by
  obtain ⟨-, rfl⟩ | ⟨ev, evs, hev, ht⟩ := step_cases h
  · exact hturn s
  · exact hhappen s ev evs t (hQ ev (by simp [hev])) ht

/-- So does a run, for a relation that steps can be chained by. -/
theorem run_keeps (hrefl : ∀ s, R s s) (htrans : ∀ s t u, R s t → R t u → R s u) (hturn : ∀ s, R s s.turn)
    (hhappen : ∀ s ev evs t, Q ev → happen ev { s with events := evs } = .next t → R s t) {n : Nat} {s u : State}
    (hQ : ∀ ev ∈ s.events, Q ev) (h : Host.Core.run core n s = .next u) : R s u := by
  induction n generalizing s with
  | zero => exact Host.Outcome.next.inj h ▸ hrefl s
  | succ n ih =>
    obtain ⟨t, hst, hrun⟩ := run_succ h
    have hQt : ∀ ev ∈ t.events, Q ev := fun ev hev => hQ ev (step_events_subset hst hev)
    exact htrans s t u (step_keeps hturn hhappen hQ hst) (ih hQt hrun)

end Run

/-- Settles O14: each step is a turn, a command, or a host transaction that writes neither LEN nor the lane, and none of
these changes it. -/
theorem callerDataIsKept : Obligations.CallerDataIsKept := by
  intro n s t hrun hreset
  refine ⟨fun hlen => ?len, fun k l hk hsrc => ?src⟩
  case len =>
    have hevents : ∀ ev ∈ s.events, isReset ev = false ∧ writesLen ev = false :=
      fun ev hev => ⟨hreset ev hev, hlen ev hev⟩
    exact run_keeps (R := fun s t => t.len = s.len) (fun _ => rfl) (fun _ _ _ h h' => h'.trans h)
      (fun s => (callerFrame_turn s).len)
      (fun s ev evs t hev h => happen_len (s := { s with events := evs }) h hev.1 hev.2) hevents hrun
  case src =>
    have hevents : ∀ ev ∈ s.events, isReset ev = false ∧ writesSrc k l ev = false :=
      fun ev hev => ⟨hreset ev hev, hsrc ev hev⟩
    exact run_keeps (R := State.sameSrcLane k l) (fun _ => ⟨rfl, rfl⟩) (fun _ _ _ => .trans)
      (fun s => (callerFrame_turn s).sameSrcLane hk l)
      (fun s ev evs t hev h => happen_sameSrcLane (s := { s with events := evs }) hk h hev.1 hev.2) hevents hrun

end Sys2Proof.Machine
end

section
/-! PROOFS. The five command words (30_encoding R70 to R75): fields and words are inverse to each other, and the legal
words are those of the commands. -/

namespace Sys2Proof

/-! ### Fields and words -/

theorem wordOf_toNat (f : Fields) : (wordOf f).toNat = f.rsv.toNat * 32 + f.dir.toNat * 16 + f.op.toNat := by
  have hdir := f.dir.isLt
  have hop := f.op.isLt
  rw [wordOf, BitVec.toNat_append, BitVec.toNat_append, ← Nat.shiftLeft_add_eq_or_of_lt (by omega),
    ← Nat.shiftLeft_add_eq_or_of_lt (by omega), Nat.shiftLeft_eq, Nat.shiftLeft_eq]
  omega

theorem fieldsOf_wordOf (f : Fields) : fieldsOf (wordOf f) = f := by
  have hdir := f.dir.isLt
  have hop := f.op.isLt
  have hrsv' : (fieldsOf (wordOf f)).rsv = f.rsv := by rw [fieldsOf_rsv_eq_iff, wordOf_toNat]; omega
  have hdir' : (fieldsOf (wordOf f)).dir = f.dir := by rw [fieldsOf_dir_eq_iff, wordOf_toNat]; omega
  have hop' : (fieldsOf (wordOf f)).op = f.op := by rw [fieldsOf_op_eq_iff, wordOf_toNat]; omega
  exact Fields.mk.injEq .. ▸ ⟨hrsv', hdir', hop'⟩

theorem wordOf_fieldsOf (w : Word) : wordOf (fieldsOf w) = w := by
  apply BitVec.eq_of_toNat_eq
  rw [wordOf_toNat, fieldsOf_rsv_toNat, fieldsOf_dir_toNat, fieldsOf_op_toNat]
  omega

/-! ### Commands and their words -/

theorem decode_encode (i : Instr) : decode (encode i) = .ok i := by cases i <;> rfl

theorem fields_wellFormed (i : Instr) : i.fields.wellFormed = true := by cases i <;> rfl

/-- The decoder answers a command on its fields alone. -/
theorem eq_fields_of_decodeFields {f : Fields} {i : Instr} (h : decodeFields f = .ok i) : f = i.fields := by
  obtain ⟨rsv, dir, op⟩ := f
  have hone : ∀ d : BitVec 1, d ≠ 0 → d = 1 := by decide
  have hzero : ∀ d : BitVec 1, d ≠ 1 → d = 0 := by decide
  simp only [decodeFields, ne_eq, ite_not] at h
  split_ifs at h with hrsv hfft hfwd hdir hfht hmag hphase
  · obtain rfl := Decoded.ok.inj h
    simp [Instr.fields, hrsv, hfft, hfwd]
  · obtain rfl := Decoded.ok.inj h
    simp [Instr.fields, hrsv, hfft, hone dir hfwd]
  · obtain rfl := Decoded.ok.inj h
    simp [Instr.fields, hrsv, hfht, hzero dir hdir]
  · obtain rfl := Decoded.ok.inj h
    simp [Instr.fields, hrsv, hmag, hzero dir hdir]
  · obtain rfl := Decoded.ok.inj h
    simp [Instr.fields, hrsv, hphase, hzero dir hdir]

theorem eq_encode_of_decode {w : Word} {i : Instr} (h : decode w = .ok i) : w = encode i := by
  rw [encode, ← eq_fields_of_decodeFields h, wordOf_fieldsOf]

/-- Settles O3: a word that decodes to a command has the fields of that command, so it is one of five words. -/
theorem exactlyFiveWordsAreLegal : Obligations.ExactlyFiveWordsAreLegal := by
  refine ⟨fun i => ⟨fields_wellFormed i, decode_encode i⟩, fun w i => eq_encode_of_decode, fun w => ⟨?legal, ?words⟩⟩
  case legal =>
    rintro ⟨i, h⟩
    obtain rfl := eq_encode_of_decode h
    cases i <;> decide
  case words =>
    rintro (rfl | rfl | rfl | rfl | rfl)
    · exact ⟨.fftFwd, rfl⟩
    · exact ⟨.fftInv, rfl⟩
    · exact ⟨.fht, rfl⟩
    · exact ⟨.mag, rfl⟩
    · exact ⟨.phase, rfl⟩

/-- Well-formed fields are those of a command, since the reserved bits and the pair of DIR and OP are then known. -/
theorem wellFormed_iff (f : Fields) : f.wellFormed = true ↔ ∃ i : Instr, f = i.fields := by
  constructor
  · intro h
    obtain ⟨rsv, dir, op⟩ := f
    simp only [Fields.wellFormed, Fields.reservedZero, Fields.opLegal, Fields.dirLegal, Bool.and_eq_true,
      Bool.or_eq_true, beq_iff_eq] at h
    obtain ⟨⟨rfl, ((rfl | rfl) | rfl) | rfl⟩, hdir⟩ := h
    · have hone : ∀ d : BitVec 1, d = 0 ∨ d = 1 := by decide
      obtain rfl | rfl := hone dir
      · exact ⟨.fftFwd, rfl⟩
      · exact ⟨.fftInv, rfl⟩
    · exact ⟨.fht, by simpa [Instr.fields] using hdir⟩
    · exact ⟨.mag, by simpa [Instr.fields] using hdir⟩
    · exact ⟨.phase, by simpa [Instr.fields] using hdir⟩
  · rintro ⟨i, rfl⟩
    exact fields_wellFormed i

theorem toOption_isSome_iff (d : Decoded) : d.toOption.isSome = true ↔ ∃ i, d = .ok i := by
  cases d with
  | ok i => exact iff_of_true rfl ⟨i, rfl⟩
  | illegal r => exact iff_of_false nofun nofun

/-- Settles O4: a word decodes to a command exactly when its fields are those of a command. -/
theorem fieldsAndWordsAreOneToOne : Obligations.FieldsAndWordsAreOneToOne := by
  refine ⟨fieldsOf_wordOf, wordOf_fieldsOf, fun w => Bool.eq_iff_iff.2 ?_⟩
  rw [wellFormed_iff, toOption_isSome_iff]
  refine exists_congr fun i => ⟨fun h => ?_, eq_fields_of_decodeFields⟩
  rw [← wordOf_fieldsOf w, h]
  exact decode_encode i

/-- Settles O1: each word by evaluation of the decoder, the slot by the word of its bytes. -/
theorem specWordsDecodeToTheirCommands : Obligations.SpecWordsDecodeToTheirCommands := by
  refine ⟨rfl, rfl, rfl, rfl, rfl, fun w hw => ?illegal, ?slot⟩
  case illegal => fin_cases hw <;> decide
  case slot =>
    have hbytes : wordOfBytes [0x11, 0x00, 0x00, 0x00, 0xAA, 0xBB, 0xCC, 0xDD] = some 0xDDCCBBAA00000011#64 := by decide
    rw [decodeSlot, hbytes]
    rfl

end Sys2Proof
end

section
/-! PROOFS. The steps that need no loop: commands issued to a BUSY core, completion, and what a step runs (10_state
R21, 20_memory R59, 30_encoding R75, R82). -/

namespace Sys2Proof.Machine

/-- Settles O8: both forms of a command look at BUSY first. -/
theorem busyCoreIgnoresCommands : Obligations.BusyCoreIgnoresCommands := by
  intro s hb
  have hexec (i : Instr) : exec i s = .next s := by rw [exec_eq, runCommand, if_pos hb]
  refine ⟨hexec, fun w => ?_⟩
  rw [issue]
  split
  · exact hexec _
  · rw [runIllegal, if_pos hb]

/-- Settles O9: the turn at Complete is the completion, and each field is its lemma. -/
theorem completionWrites : Obligations.CompletionWrites := by
  intro s hseq
  have hturn : s.turn = s.complete := by rw [State.turn, hseq]
  rw [hturn]
  exact ⟨rfl, rfl, rfl, rfl, rfl, rfl, rfl, rfl, rfl, rfl, rfl, rfl, rfl, rfl⟩

theorem issue_of_decode_ok {w : Word} {i : Instr} (h : decode w = .ok i) (s : State) : issue w s = exec i s := by
  rw [issue, h]

theorem issue_of_decode_illegal {w : Word} (h : (decode w).toOption = none) (s : State) :
    issue w s = runIllegal w s := by
  obtain ⟨r, hr⟩ := (Decoded.toOption_eq_none_iff _).1 h
  rw [issue, hr]

theorem step_command {s : State} {w : Word} {es : List Event} (h : s.events = .command w :: es) :
    step s = issue w { s with events := es, resp := .written } := step_cons h

theorem decodeTableWord_eq_some {nbits w : Nat} {i : Instr} (h : decodeTableWord nbits w = some i) :
    decode (tableWord nbits w) = .ok i := by
  unfold decodeTableWord at h
  split at h
  · cases hd : decode (tableWord nbits w) with
    | ok j => rw [hd] at h; rw [Option.some.inj h]
    | illegal r => simp [hd] at h
  · contradiction

@[simp] theorem ready_busy (s : State) : s.ready.busy = false := by
  unfold State.ready
  split
  next => rfl
  next h => exact Bool.not_eq_true _ ▸ h

theorem ready_events (s : State) : s.ready.events = s.events := by
  unfold State.ready
  split <;> rfl

/-- Settles O21: the step takes the issued word off the events and runs what it decodes to. -/
theorem stepRunsTheDecodedCommand : Obligations.StepRunsTheDecodedCommand := by
  refine ⟨fun s w es i hev hi => ?_, fun s w es hev hi => ?_, fun s nbits w i hi => ?_⟩
  · rw [step_command hev, issue_of_decode_ok hi]
  · rw [step_command hev, issue_of_decode_illegal hi]
  · rw [step_command (s := s.withFetchWord nbits w) rfl, issue_of_decode_ok (decodeTableWord_eq_some hi),
      State.withFetchWord, State.present, ← ready_events]

/-- No event stops the machine. -/
theorem happen_next (ev : Event) (s : State) : ∃ t, happen ev s = .next t := by
  cases ev with
  | host tx => exact ⟨_, rfl⟩
  | turn => exact ⟨_, rfl⟩
  | command w =>
    rw [happen, issue]
    split
    · rw [exec_eq]
      exact ⟨_, rfl⟩
    · exact ⟨_, rfl⟩
  | reset presented => exact ⟨_, rfl⟩

theorem step_next (s : State) : ∃ t, step s = .next t := by
  cases hev : s.events with
  | nil => exact ⟨_, step_nil hev⟩
  | cons ev evs =>
    obtain ⟨t, ht⟩ := happen_next ev { s with events := evs }
    exact ⟨t, (step_cons hev).trans ht⟩

/-- Settles O22: no event stops the machine, and none adds an event. -/
theorem stepTakesOneEvent : Obligations.StepTakesOneEvent := by
  intro s
  obtain ⟨t, hstep⟩ := step_next s
  refine ⟨t, hstep, ?_⟩
  obtain ⟨hnil, rfl⟩ | ⟨ev, evs, hev, hhappen⟩ := step_cases hstep
  · refine ⟨?_, fun _ => rfl, fun ev evs hev => by simp [hnil] at hev⟩
    rw [(callerFrame_turn s).events, hnil, List.tail_nil]
  · refine ⟨?_, fun hnil => by simp [hnil] at hev, fun ev' evs' hev' => ?_⟩
    · rw [happen_events hhappen, hev, List.tail_cons]
    · obtain ⟨rfl, rfl⟩ := List.cons.inj (hev.symm.trans hev')
      exact hhappen

/-- Settles O18: reset leaves an idle core that lists no byte, with whole tables and every counter 0. -/
theorem resetStateMeetsInvariant : Obligations.ResetStateMeetsInvariant where
  memSorted := List.Pairwise.nil
  memInWindows := by simp [State.reset]
  lanesWhole _ _ _ _ := rfl
  busyWhenRunning := by decide
  cmdWhenRunning := by decide
  latched := nofun
  errWhenError := by decide
  rlenWhenDone := by decide
  tables := ⟨List.length_replicate, List.length_replicate⟩
  counters := by simp [Regs.inRange, State.reset, Regs.reset]
  position := .inl rfl

/-- Settles O44: the widths and bounds by evaluation; BASE is a multiple of its block by definition. -/
theorem parametersOfTheConfiguration : Obligations.ParametersOfTheConfiguration := by
  refine ⟨rfl, rfl, rfl, rfl, rfl, rfl, by decide, by decide, rfl, by decide, rfl, by decide, base_mod_block, ?tol,
    ?cap⟩
  case tol => norm_num [tol, Config.tol]
  case cap => exact fun s => rfl

end Sys2Proof.Machine
end

section
/-! PROOFS. What 00_scope R8 names of SIN and COS, whatever the configuration gives. -/

namespace Sys2Proof.Machine.Float64

theorem isNaN_cos (raw : F64 → F64) {a : F64} (h : isNaN a = true) : isNaN (cos raw a) = true := by
  rw [cos, if_pos h, isNaN_nanOf]

theorem sin_neg_eq (raw : F64 → F64) (a : F64) : sin raw (neg a) = neg (sin raw a) := by
  rw [sin, sign_neg, abs_neg_eq, signed_not, sin]

theorem cos_neg_eq (raw : F64 → F64) (a : F64) : cos raw (neg a) = cos raw a := by
  simp only [cos, isNaN_neg, isZero_neg, abs_neg_eq]

end Sys2Proof.Machine.Float64

namespace Sys2Proof.Machine

/-- Settles O50: the special arguments are tests of SIN and COS themselves; the sign is split off before them. -/
theorem sineAndCosineProperties : Obligations.SineAndCosineProperties := fun sinRaw cosRaw a =>
  ⟨rfl, rfl, Float64.sin_neg_eq sinRaw a, Float64.cos_neg_eq cosRaw a,
    fun h => ⟨Float64.isNaN_sin sinRaw h, Float64.isNaN_cos cosRaw h⟩⟩

end Sys2Proof.Machine
end

section
/-! PROOFS. The sequencer computes what the collapsed command computes (10_state R35): loop by loop, the turns from the
loop's first position to the position after it do to the working data what the loop of the procedure does. -/

namespace Sys2Proof.Machine

/-! ### States by position and working data -/

/-- A core that stands at a position with given working data. -/
def State.place (s : State) (q : Seq) (w : Work Memory F64) : State := (s.withWork w).goto q

/-- Some number of turns leads from one state to another. -/
def State.Reaches (s t : State) : Prop := ∃ n, s.turns n = t

theorem State.Reaches.refl (s : State) : s.Reaches s := ⟨0, rfl⟩

theorem State.Reaches.trans {s t u : State} (h : s.Reaches t) (h' : t.Reaches u) : s.Reaches u := by
  obtain ⟨a, rfl⟩ := h
  obtain ⟨b, rfl⟩ := h'
  exact ⟨a + b, turns_add a b s⟩

theorem State.reaches_turn (s : State) : s.Reaches s.turn := ⟨1, rfl⟩

theorem State.reaches_of_turn {s t : State} (h : s.turn = t) : s.Reaches t := h ▸ s.reaches_turn

/-- The turns of a loop: iteration by iteration from its first position to the one after it. -/
theorem reaches_forStride {s : State} {stride : Nat} {body : Nat → Work Memory F64 → Work Memory F64} (pos : Nat → Seq)
    (count i : Nat) (w : Work Memory F64)
    (h : ∀ t v, t < count →
      (s.place (pos (i + t * stride)) v).Reaches (s.place (pos (i + (t + 1) * stride)) (body (i + t * stride) v))) :
    (s.place (pos i) w).Reaches (s.place (pos (i + count * stride)) (forStride stride body count i w)) := by
  refine forStride_induction (P := fun t v => (s.place (pos i) w).Reaches (s.place (pos (i + t * stride)) v)) count ?_
    fun t v ht hv => hv.trans (h t v ht)
  rw [Nat.zero_mul, Nat.add_zero]
  exact .refl _

/-- The turns of a loop that steps by one and starts at 0. -/
theorem reaches_loop {s : State} {body : Nat → Work Memory F64 → Work Memory F64} (pos : Nat → Seq) (count : Nat)
    (w : Work Memory F64)
    (h : ∀ t v, t < count → (s.place (pos t) v).turn = s.place (pos (t + 1)) (body t v)) :
    (s.place (pos 0) w).Reaches (s.place (pos count) (forStride 1 body count 0 w)) := by
  have := reaches_forStride (s := s) (stride := 1) (body := body) pos count 0 w fun t v ht => by
    simpa using State.reaches_of_turn (h t v ht)
  simpa using this

/-- What follows the stages (42_fft R114, R115). -/
def afterStages : Direction → Seq
  | .forward => .complete
  | .inverse => .scaleN 0

theorem afterGroup_of_lt {dir : Direction} {n st g : Nat} (h : g + 1 < st) :
    afterGroup dir n st g = .fftStage st (g + 1) (g + 1) .pair := by simp [afterGroup, h]

theorem afterGroup_last {dir : Direction} {n st g : Nat} (h : ¬ g + 1 < st) :
    afterGroup dir n st g = if 2 * st < n then stageStart (2 * st) else afterStages dir := by
  cases dir <;> simp [afterGroup, h, afterStages]

/-! ### Positions by what is left of a loop -/

/-- The position of the pair at p, or of the advance after the last pair. -/
def pairOrAdvance (n st g p : Nat) : Seq := if p < n then .fftStage st g p .pair else .fftStage st g p .advance

/-- The position of the rotation at i, or of the first combination after the last rotation. -/
def rotOrAddSub (level g i : Nat) : Seq :=
  if i < level / 2 - i then .htRot level g i (level / 2 - i) else .htAddSub level g 0

theorem afterRot_eq (level g i : Nat) : afterRot level g i (level / 2 - i) = rotOrAddSub level g (i + 1) := by
  rw [afterRot, rotOrAddSub, Nat.sub_sub]

/-- Where the sequencer goes after a level, and what is assigned on the way. -/
def afterLevel (n level : Nat) : Seq := if 2 * level ≤ n then groupStart (2 * level) 0 else .htNorm 0
def enterNextLevel {F : Type} (n level : Nat) (w : Work Memory F) : Work Memory F :=
  if 2 * level ≤ n then ladderGroupEnter (2 * level) (levelEnter w) else w

section Positions

variable {s : State} {n : Nat} (hn : s.nAct.toNat = n) (w : Work Memory F64)
include hn

/-! ### BRP: the copy and the permutation (40_bit_reverse R92) -/

theorem reaches_copyIn :
    (s.place (.copyIn 0) w).Reaches (s.place (.bitRev 0) (copyIn s.env (s.opAct == 2) n w)) := by
  subst hn
  refine (reaches_loop (body := copyElem s.env (s.opAct == 2)) .copyIn s.nAct.toNat w fun k v hk => ?_).trans
    (State.reaches_of_turn ?_)
  · exact if_pos hk
  · exact if_neg (lt_irrefl _)

/-- The visits of BRP.PERMUTE, up to the position after the last. -/
theorem reaches_visits :
    (s.place (.bitRev 0) w).Reaches (s.place (.bitRev n) (permute s.env n w)) := by
  subst hn
  exact reaches_loop .bitRev s.nAct.toNat w fun i v hi => if_pos hi

theorem reaches_permute_fft (hop : s.opAct = 1) :
    (s.place (.bitRev 0) w).Reaches (s.place (stageStart 1) (setStep 1 (permute s.env n w))) := by
  refine (reaches_visits hn w).trans (State.reaches_of_turn ?_)
  subst hn
  exact (if_neg (lt_irrefl _)).trans (if_pos hop)

theorem reaches_permute_fht (hop : s.opAct = 2) :
    (s.place (.bitRev 0) w).Reaches (s.place (.htTable 0) (permute s.env n w)) := by
  refine (reaches_visits hn w).trans (State.reaches_of_turn ?_)
  subst hn
  exact (if_neg (lt_irrefl _)).trans (if_neg (by show ¬ s.opAct = 1; rw [hop]; decide))

/-! ### The stages (42_fft R112) -/

/-- The pairs of a group. -/
theorem reaches_pairs {st g c : Nat} (hg : g < st) (hc : n = (c + 1) * (2 * st)) :
    (s.place (.fftStage st g g .pair) w).Reaches
      (s.place (.fftStage st g (g + n) .advance) (forStride (2 * st) (stagePair s.env st) (n / (2 * st)) g w)) := by
  have hlt : ∀ t, t < c + 1 → g + t * (2 * st) < n := fun t ht => by
    calc g + t * (2 * st) < (t + 1) * (2 * st) := by rw [add_one_mul t]; omega
      _ ≤ n := by rw [hc]; exact Nat.mul_le_mul_right _ ht
  have hturns := reaches_forStride (s := s) (stride := 2 * st) (body := stagePair s.env st) (pairOrAdvance n st g)
    (c + 1) g w fun t v ht => by
      rw [pairOrAdvance, if_pos (hlt t ht), add_one_mul t, ← Nat.add_assoc]
      subst hn
      exact State.reaches_turn _
  have hcount : n / (2 * st) = c + 1 := by rw [hc]; exact Nat.mul_div_cancel _ (by omega)
  rw [← hc, pairOrAdvance, if_pos (by simpa using hlt 0 (by omega)), pairOrAdvance, if_neg (by omega)] at hturns
  rwa [hcount]

/-- A group, and what its last turn assigns for what follows it. -/
theorem reaches_stageGroup {st g c : Nat} (hg : g < st) (hc : n = (c + 1) * (2 * st)) :
    (s.place (.fftStage st g g .pair) (stageGroupEnter g w)).Reaches
      (s.place (afterGroup s.dAct n st g) (stageGroupTail st g (stageGroup s.env n st g w))) := by
  refine (reaches_pairs hn (stageGroupEnter g w) hg hc).trans (State.reaches_of_turn ?_)
  subst hn
  rfl

/-- The groups of a stage. -/
theorem reaches_stageGroups {st c : Nat} (hst : 0 < st) (hc : n = (c + 1) * (2 * st)) :
    (s.place (.fftStage st 0 0 .pair) (stageGroupEnter 0 w)).Reaches
      (s.place (afterGroup s.dAct n st (st - 1)) (setStep (2 * st) (forStride 1 (stageGroup s.env n st) st 0 w))) := by
  obtain ⟨st, rfl⟩ := Nat.exists_eq_add_of_le' hst
  have hgroups : ∀ g, g ≤ st → (s.place (.fftStage (st + 1) 0 0 .pair) (stageGroupEnter 0 w)).Reaches
      (s.place (.fftStage (st + 1) g g .pair)
        (stageGroupEnter g (forStride 1 (stageGroup s.env n (st + 1)) g 0 w))) := by
    intro g hg
    induction g with
    | zero => exact .refl _
    | succ g ih =>
      have hlast := reaches_stageGroup hn (forStride 1 (stageGroup s.env n (st + 1)) g 0 w) (g := g) (by omega) hc
      rw [afterGroup_of_lt (by omega), stageGroupTail, if_pos (by omega)] at hlast
      rw [forStride_last, Nat.zero_add, Nat.mul_one]
      exact (ih (by omega)).trans hlast
  have hlast := reaches_stageGroup hn (forStride 1 (stageGroup s.env n (st + 1)) st 0 w) (g := st) (by omega) hc
  rw [stageGroupTail, if_neg (lt_irrefl _)] at hlast
  rw [forStride_last, Nat.zero_add, Nat.mul_one]
  exact (hgroups st le_rfl).trans hlast

/-- A stage, up to what follows its last group. -/
theorem reaches_stage {st c : Nat} (hst : 0 < st) (hc : n = (c + 1) * (2 * st)) :
    (s.place (stageStart st) w).Reaches
      (s.place (afterGroup s.dAct n st (st - 1)) (stage s.env s.dAct n st w)) :=
  (State.reaches_of_turn rfl).trans
    (reaches_stageGroups hn (twInit s.env.num (twSetup s.env.num s.dAct st w)) hst hc)

/-- The stages. -/
theorem reaches_fftCore {m : Nat} (hm : 0 < m) (hpow : n = 2 ^ m) :
    (s.place (stageStart 1) (setStep 1 w)).Reaches
      (s.place (afterStages s.dAct) (fftCore s.env s.dAct n w)) := by
  have hstages := reaches_forStride (s := s) (stride := 1) (body := fun t => stage s.env s.dAct n (2 ^ t))
    (fun t => if t < m then stageStart (2 ^ t) else afterStages s.dAct) m 0 (setStep 1 w) fun t v ht => by
      have hc : n = (2 ^ (m - t - 1) - 1 + 1) * (2 * 2 ^ t) := by
        rw [Nat.sub_add_cancel (Nat.one_le_two_pow), ← pow_succ', ← pow_add, hpow]
        congr 1
        omega
      have hstage := reaches_stage hn v (st := 2 ^ t) (by positivity) hc
      rw [afterGroup_last (by have := Nat.one_le_two_pow (n := t); omega)] at hstage
      simp only [Nat.zero_add, Nat.mul_one, if_pos ht]
      have hnext : (2 * 2 ^ t < n) ↔ t + 1 < m := by
        rw [hpow, ← pow_succ', Nat.pow_lt_pow_iff_right (by decide)]
      simpa only [hnext, pow_succ'] using hstage
  simp only [hm, if_true, pow_zero, Nat.zero_add, Nat.mul_one, lt_irrefl, if_false] at hstages
  rw [fftCore, hpow, Nat.log2_two_pow, ← hpow]
  exact hstages

theorem reaches_scaleN :
    (s.place (.scaleN 0) w).Reaches (s.place .complete (scaleN s.env n w)) := by
  subst hn
  refine (reaches_loop (body := scaleElem s.env s.nAct.toNat) .scaleN s.nAct.toNat w fun k v hk => ?_).trans
    (State.reaches_of_turn ?_)
  · exact if_pos hk
  · exact if_neg (lt_irrefl _)

/-! ### The table, the ladder and the normalisation (43_hartley R130, R134, R135) -/

theorem reaches_hartleyTable :
    (s.place (.htTable 0) w).Reaches
      (s.place (groupStart 2 0)
        (ladderGroupEnter 2 (levelEnter (ladderEnter n (hartleyTable s.env.num n w))))) := by
  subst hn
  refine (reaches_loop (body := tableEntry s.env.num s.nAct.toNat) .htTable (s.nAct.toNat / 2) w fun k v hk => ?_).trans
    (State.reaches_of_turn ?_)
  · exact if_pos hk
  · exact if_neg (lt_irrefl _)

/-- The rotations of a group. -/
theorem reaches_rotations (level g : Nat) :
    (s.place (groupStart level g) w).Reaches
      (s.place (.htAddSub level g 0)
        (forStride 1 (fun i => ladderRot s.env n level g i (level / 2 - i)) ((level / 2 - 1) / 2) 1 w)) := by
  have hturns := reaches_forStride (s := s) (stride := 1)
    (body := fun i => ladderRot s.env n level g i (level / 2 - i)) (rotOrAddSub level g) ((level / 2 - 1) / 2) 1 w
    fun t v ht => by
      rw [Nat.mul_one, Nat.mul_one, ← Nat.add_assoc, ← afterRot_eq, rotOrAddSub, if_pos (by omega)]
      subst hn
      exact State.reaches_turn _
  have hend : ¬ 1 + (level / 2 - 1) / 2 * 1 < level / 2 - (1 + (level / 2 - 1) / 2 * 1) := by omega
  rwa [rotOrAddSub, rotOrAddSub, if_neg hend] at hturns

/-- The combinations of a group, and what the last turn assigns for what follows the group. -/
theorem reaches_combinations {level g : Nat} (hlevel : 0 < level / 2) :
    (s.place (.htAddSub level g 0) w).Reaches
      (s.place (afterAddSub n level g (level / 2 - 1))
        (addSubTail n level g (level / 2 - 1) (forStride 1 (ladderAddSub s.env level g) (level / 2) 0 w))) := by
  obtain ⟨half, hhalf⟩ := Nat.exists_eq_add_of_le' hlevel
  have hturns := reaches_loop (s := s) (body := ladderAddSub s.env level g) (.htAddSub level g) half w fun i v hi => by
    have hturn : (s.place (.htAddSub level g i) v).turn = s.place (afterAddSub s.nAct.toNat level g i)
      (addSubTail s.nAct.toNat level g i (ladderAddSub s.env level g i v)) := rfl
    rw [hturn, afterAddSub, if_pos (by omega), addSubTail, if_pos (by omega)]
  rw [hhalf, Nat.add_sub_cancel, forStride_last, Nat.zero_add, Nat.mul_one]
  refine hturns.trans (State.reaches_of_turn ?_)
  subst hn
  rfl

/-- A group of the ladder. -/
theorem reaches_ladderGroup {level g : Nat} (hlevel : 0 < level / 2) :
    ∃ v, ladderGroup s.env n level g w = ladderGroupLeave level g v ∧
      (s.place (groupStart level g) (ladderGroupEnter level w)).Reaches
        (s.place (afterAddSub n level g (level / 2 - 1)) (addSubTail n level g (level / 2 - 1) v)) :=
  ⟨_, rfl, (reaches_rotations hn (ladderGroupEnter level w) level g).trans (reaches_combinations hn _ hlevel)⟩

/-- A level of the ladder: its groups, the last of which leads to the next level. -/
theorem reaches_ladderLevel {level c : Nat} (hlevel : 0 < level / 2) (hc : n = (c + 1) * level) :
    (s.place (groupStart level 0) (ladderGroupEnter level (levelEnter w))).Reaches
      (s.place (afterLevel n level) (enterNextLevel n level (ladderLevel s.env n level w))) := by
  have hcount : n / level = c + 1 := by rw [hc]; exact Nat.mul_div_cancel _ (by omega)
  have hlast : ¬ level / 2 - 1 + 1 < level / 2 := by omega
  have hgroups : ∀ t, t ≤ c → (s.place (groupStart level 0) (ladderGroupEnter level (levelEnter w))).Reaches
      (s.place (groupStart level (t * level))
        (ladderGroupEnter level (forStride level (ladderGroup s.env n level) t 0 (levelEnter w)))) := by
    intro t ht
    induction t with
    | zero => rw [Nat.zero_mul]; exact .refl _
    | succ t ih =>
      obtain ⟨v, hv, hgroup⟩ := reaches_ladderGroup hn
        (forStride level (ladderGroup s.env n level) t 0 (levelEnter w)) (g := t * level) hlevel
      have hlt : t * level + level < n := by
        rw [hc, ← add_one_mul t]
        exact Nat.mul_lt_mul_of_pos_right (by omega) (by omega)
      simp only [afterAddSub, addSubTail, if_neg hlast, if_pos hlt] at hgroup
      rw [forStride_last, Nat.zero_add, hv, add_one_mul t]
      exact (ih (by omega)).trans hgroup
  obtain ⟨v, hv, hgroup⟩ := reaches_ladderGroup hn
    (forStride level (ladderGroup s.env n level) c 0 (levelEnter w)) (g := c * level) hlevel
  have hge : ¬ c * level + level < n := by rw [hc, add_one_mul c]; exact lt_irrefl _
  simp only [afterAddSub, addSubTail, if_neg hlast, if_neg hge] at hgroup
  rw [ladderLevel, hcount, forStride_last, Nat.zero_add, hv]
  exact (hgroups c le_rfl).trans hgroup

/-- The levels of the ladder. -/
theorem reaches_ladder {m : Nat} (hm : 0 < m) (hpow : n = 2 ^ m) :
    (s.place (groupStart 2 0) (ladderGroupEnter 2 (levelEnter (ladderEnter n w)))).Reaches
      (s.place (.htNorm 0) (ladder s.env n w)) := by
  have hle : ∀ t, t < m → 2 * 2 ^ t ≤ n := fun t ht => by
    rw [hpow, ← pow_succ']
    exact Nat.pow_le_pow_right two_pos ht
  have hlevels := forStride_induction
    (P := fun t v => (s.place (groupStart 2 0) (ladderGroupEnter 2 (levelEnter (ladderEnter n w)))).Reaches
      (s.place (afterLevel n (2 ^ t)) (enterNextLevel n (2 ^ t) v)))
    (stride := 1) (body := fun t => ladderLevel s.env n (2 ^ (t + 1))) (i := 0) (w := ladderEnter n w) m
    (by rw [afterLevel, enterNextLevel, if_pos (hle 0 hm), if_pos (hle 0 hm)]; exact .refl _)
    fun t v ht hv => by
      have hc : n = (2 ^ (m - t - 1) - 1 + 1) * 2 ^ (t + 1) := by
        rw [Nat.sub_add_cancel Nat.one_le_two_pow, ← pow_add, hpow]
        congr 1
        omega
      rw [afterLevel, enterNextLevel, if_pos (hle t ht), if_pos (hle t ht), ← pow_succ'] at hv
      rw [Nat.zero_add, Nat.mul_one]
      exact hv.trans (reaches_ladderLevel hn v (by rw [pow_succ, Nat.mul_div_cancel _ two_pos]; positivity) hc)
  have hend : ¬ 2 * 2 ^ m ≤ n := by rw [hpow]; have := Nat.one_le_two_pow (n := m); omega
  rw [afterLevel, enterNextLevel, if_neg hend, if_neg hend] at hlevels
  rw [ladder, hpow, Nat.log2_two_pow, ← hpow]
  exact hlevels

/-- HT.NORM: the root is taken in the turn of the first element. -/
theorem reaches_hartleyNorm (hpos : 0 < n) :
    (s.place (.htNorm 0) w).Reaches (s.place .complete (hartleyNorm s.env n w)) := by
  subst hn
  have hturns := forStride_induction (stride := 1) (body := normElem s.env) (i := 0)
    (w := normRoot s.env.num s.nAct.toNat w)
    (P := fun k v => (k = 0 → v = normRoot s.env.num s.nAct.toNat w) ∧
      (s.place (.htNorm 0) w).Reaches (s.place (.htNorm k) (if k = 0 then w else v)))
    s.nAct.toNat ⟨fun _ => rfl, .refl _⟩ fun k v hk ⟨hroot, hv⟩ => by
      refine ⟨fun h => absurd h (Nat.succ_ne_zero k), hv.trans (State.reaches_of_turn ?_)⟩
      refine (if_pos hk).trans ?_
      rw [if_neg (Nat.succ_ne_zero k), Nat.zero_add, Nat.mul_one]
      rcases Nat.eq_zero_or_pos k with rfl | hk0
      · rw [hroot rfl]
        rfl
      · rw [if_neg hk0.ne']
        simp only [if_neg hk0.ne']
        rfl
  refine hturns.2.trans (State.reaches_of_turn ?_)
  rw [if_neg hpos.ne']
  exact if_neg (lt_irrefl _)

/-! ### ELEMENTWISE (44_spectral R154) -/

theorem reaches_magnitude (hop : s.opAct = 3) :
    (s.place (.elementwise 0) w).Reaches (s.place .complete (magnitude s.env n w)) := by
  subst hn
  refine (reaches_loop (body := magElem s.env) .elementwise s.nAct.toNat w fun k v hk => ?_).trans
    (State.reaches_of_turn ?_)
  · refine (if_pos hk).trans ?_
    have hop' : (s.place (.elementwise k) v).opAct = 3 := hop
    simp only [hop', if_true]
    rfl
  · exact if_neg (lt_irrefl _)

theorem reaches_phases (hop : s.opAct = 4) :
    (s.place (.elementwise 0) w).Reaches (s.place .complete (phases s.env n w)) := by
  subst hn
  refine (reaches_loop (body := phaseElem s.env) .elementwise s.nAct.toNat w fun k v hk => ?_).trans
    (State.reaches_of_turn ?_)
  · refine (if_pos hk).trans ?_
    have hop' : ¬ (s.place (.elementwise k) v).opAct = 3 := by
      rw [show (s.place (.elementwise k) v).opAct = 4 from hop]
      decide
    simp only [if_neg hop']
    rfl
  · exact if_neg (lt_irrefl _)

end Positions

/-! ### The commands -/

/-- The lengths on which a transform is not refused. -/
theorem exists_pow_of_validateLength {i : Instr} {n : Nat} (hi : i.isTransform = true)
    (h : validateLength i n = none) : ∃ m, 1 ≤ m ∧ m ≤ Config.log2Nmax ∧ n = 2 ^ m := by
  have hvalid : ¬ lengthInvalid i n = true := fun hl => by simp [validateLength, hl] at h
  have hcap : n ≤ Config.nmax := Nat.le_of_not_lt fun hl => by simp [validateLength, hvalid, hl] at h
  have hpow : ∃ m, 1 ≤ m ∧ n = 2 ^ m := by
    cases i with
    | fftFwd =>
      rw [lengthInvalid_fftFwd_iff, not_or, not_not] at hvalid
      obtain ⟨htwo, m, rfl⟩ := hvalid
      exact ⟨m, Nat.one_le_iff_ne_zero.2 (by rintro rfl; simp at htwo), rfl⟩
    | fftInv =>
      rw [lengthInvalid_fftInv_iff, not_or, not_not] at hvalid
      obtain ⟨htwo, m, rfl⟩ := hvalid
      exact ⟨m, Nat.one_le_iff_ne_zero.2 (by rintro rfl; simp at htwo), rfl⟩
    | fht =>
      rw [lengthInvalid_fht_iff, not_or, not_not] at hvalid
      obtain ⟨heven, m, rfl⟩ := hvalid
      exact ⟨m, Nat.one_le_iff_ne_zero.2 (by rintro rfl; simp at heven), rfl⟩
    | mag => contradiction
    | phase => contradiction
  obtain ⟨m, hm, rfl⟩ := hpow
  exact ⟨m, hm, (Nat.pow_le_pow_iff_right (by decide)).1 hcap, rfl⟩

/-- From its first position to Complete, the turns of a command do its procedure. -/
theorem reaches_procedure {i : Instr} {s : State} (hop : s.opAct = i.fields.op)
    (hdir : s.dAct = directionOf i.fields.dir) (hv : validateLength i s.nAct.toNat = none) :
    (s.goto (firstPosition (.ok i))).Reaches (s.place .complete (procedureOf i s.env s.nAct.toNat s.work)) := by
  cases i with
  | fftFwd =>
    obtain ⟨m, hm, -, hpow⟩ := exists_pow_of_validateLength rfl hv
    have hcopy := reaches_copyIn (s := s) rfl s.work
    have hcore (v : Work Memory F64) := reaches_fftCore (s := s) rfl v hm hpow
    rw [hop] at hcopy
    simp only [hdir] at hcore
    exact (hcopy.trans (reaches_permute_fft rfl _ hop)).trans (hcore _)
  | fftInv =>
    obtain ⟨m, hm, -, hpow⟩ := exists_pow_of_validateLength rfl hv
    have hcopy := reaches_copyIn (s := s) rfl s.work
    have hcore (v : Work Memory F64) := reaches_fftCore (s := s) rfl v hm hpow
    rw [hop] at hcopy
    simp only [hdir] at hcore
    exact ((hcopy.trans (reaches_permute_fft rfl _ hop)).trans (hcore _)).trans (reaches_scaleN rfl _)
  | fht =>
    obtain ⟨m, hm, -, hpow⟩ := exists_pow_of_validateLength rfl hv
    have hcopy := reaches_copyIn (s := s) rfl s.work
    rw [hop] at hcopy
    have htable := (hcopy.trans (reaches_permute_fht rfl _ hop)).trans (reaches_hartleyTable rfl _)
    have hpos : 0 < s.nAct.toNat := by rw [hpow]; positivity
    exact (htable.trans (reaches_ladder rfl _ hm hpow)).trans (reaches_hartleyNorm rfl _ hpos)
  | mag => exact reaches_magnitude rfl s.work hop
  | phase => exact reaches_phases rfl s.work hop

theorem encode_op (i : Instr) : (encode i).extractLsb' 0 4 = i.fields.op := by cases i <;> rfl

theorem encode_dir (i : Instr) : (encode i).extractLsb' 4 1 = i.fields.dir := by cases i <;> rfl

theorem validate_decode_encode (i : Instr) (n : Nat) : validate (decode (encode i)) n = validateLength i n := by
  rw [decode_encode]
  rfl

theorem validateTurn_passed {w : Word} {s : State} (hcmd : s.cmd = some w)
    (hk : validate (decode w) s.nAct.toNat = none) : s.validateTurn = s.begin.goto (firstPosition (decode w)) := by
  simp [State.validateTurn, hcmd, hk]

theorem turn_accept_refused {i : Instr} {s : State} {k : ErrorKind} (hv : validateLength i s.len.toNat = some k) :
    (s.accept (encode i)).turn = (s.accept (encode i)).refuse k := by
  rw [turn_accept]
  exact validateTurn_refused (s.accept_cmd _) ((validate_decode_encode i _).trans hv)

theorem turn_accept_valid {i : Instr} {s : State} (hv : validateLength i s.len.toNat = none) :
    (s.accept (encode i)).turn = (s.accept (encode i)).begin.goto (firstPosition (.ok i)) := by
  rw [turn_accept, validateTurn_passed (s.accept_cmd _) ((validate_decode_encode i _).trans hv), decode_encode]

theorem reaches_exec (i : Instr) {s : State} (hb : s.busy = false) :
    ∃ t, exec i s = .next t ∧ (s.accept (encode i)).Reaches t ∧ t.busy = false := by
  cases hv : validateLength i s.len.toNat with
  | some k =>
    exact ⟨_, by simp [exec_eq, runCommand, hb, conclude_refused, hv], State.reaches_of_turn (turn_accept_refused hv),
      rfl⟩
  | none =>
    have hproc := reaches_procedure (s := (s.accept (encode i)).begin) (encode_op i)
      (congrArg directionOf (encode_dir i)) hv
    exact ⟨_, exec_completed hb hv,
      ((State.reaches_of_turn (turn_accept_valid hv)).trans hproc).trans (State.reaches_turn _), rfl⟩

/-- Settles O23: acceptance, the turn of validation, then the turns of the procedure's loops and the completion. -/
theorem microStepsAgreeWithCommands : Obligations.MicroStepsAgreeWithCommands := by
  intro i s hb
  obtain ⟨t, hexec, ⟨n, hn⟩, hbt⟩ := reaches_exec i hb
  exact ⟨n, t, hexec, by rw [State.writeReg_cmd hb, hn], hbt⟩

end Sys2Proof.Machine
end

section
/-! PROOFS. The units store below N alone (20_memory R62): the elements each micro-operation writes. -/

namespace Sys2Proof.Machine

section StoresBelow

variable {M F : Type} {e : Env M F} {n : Nat}

/-- The second memory comes of the first by stores to DST[0..n-1]. -/
def Env.StoresBelow (e : Env M F) (n : Nat) : M → M → Prop :=
  Relation.ReflTransGen fun m m' => ∃ k l x, k < n ∧ m' = e.put m k l x

theorem Env.StoresBelow.refl (e : Env M F) (n : Nat) (m : M) : e.StoresBelow n m m := Relation.ReflTransGen.refl

theorem Env.StoresBelow.trans {m m' m'' : M} (h : e.StoresBelow n m m') (h' : e.StoresBelow n m' m'') :
    e.StoresBelow n m m'' := Relation.ReflTransGen.trans h h'

theorem Env.storesBelow_put (e : Env M F) {k : Nat} (hk : k < n) (m : M) (l : Lane) (x : F) :
    e.StoresBelow n m (e.put m k l x) := Relation.ReflTransGen.single ⟨k, l, x, hk, rfl⟩

/-- What every store below n keeps, such stores keep. -/
theorem Env.StoresBelow.keeps {P : M → Prop} (hput : ∀ m k l x, k < n → P m → P (e.put m k l x)) {m m' : M}
    (h : e.StoresBelow n m m') (hm : P m) : P m' := by
  induction h with
  | refl => exact hm
  | tail _ hstore ih =>
    obtain ⟨k, l, x, hk, rfl⟩ := hstore
    exact hput _ k l x hk ih

/-- The second memory comes of the first by stores to the real lanes of DST[0..n-1]. -/
def Env.StoresReal (e : Env M F) (n : Nat) : M → M → Prop :=
  Relation.ReflTransGen fun m m' => ∃ k x, k < n ∧ m' = e.put m k .re x

theorem Env.StoresReal.refl (e : Env M F) (n : Nat) (m : M) : e.StoresReal n m m := Relation.ReflTransGen.refl

theorem Env.StoresReal.trans {m m' m'' : M} (h : e.StoresReal n m m') (h' : e.StoresReal n m' m'') :
    e.StoresReal n m m'' := Relation.ReflTransGen.trans h h'

theorem Env.storesReal_put (e : Env M F) {k : Nat} (hk : k < n) (m : M) (x : F) :
    e.StoresReal n m (e.put m k .re x) := Relation.ReflTransGen.single ⟨k, x, hk, rfl⟩

theorem Env.StoresReal.storesBelow {m m' : M} (h : e.StoresReal n m m') : e.StoresBelow n m m' :=
  Relation.ReflTransGen.mono (fun _ _ ⟨k, x, hk, hm⟩ => ⟨k, .re, x, hk, hm⟩) _ _ h

/-- Stores to real lanes leave the imaginary ones. -/
theorem Env.StoresReal.dst_im {b : Nat} (he : e.ReadsStores b) (hn : n ≤ b) {m m' : M} (h : e.StoresReal n m m')
    {k : Nat} (hk : k < b) : e.dst m' k .im = e.dst m k .im := by
  induction h with
  | refl => rfl
  | tail _ hstore ih =>
    obtain ⟨k', x, hk', rfl⟩ := hstore
    rw [he.dst_put _ _ _ _ (hk'.trans_le hn) hk, if_neg (by simp), ih]

/-- A loop whose iterations store to real lanes stores to real lanes. -/
theorem Env.storesReal_forStride {stride : Nat} {body : Nat → Work M F → Work M F} {count i : Nat}
    (h : ∀ t (w : Work M F), t < count → e.StoresReal n w.mem (body (i + t * stride) w).mem) (w : Work M F) :
    e.StoresReal n w.mem (forStride stride body count i w).mem :=
  forStride_induction (P := fun _ (v : Work M F) => e.StoresReal n w.mem v.mem) count (.refl e n _)
    fun t v ht hv => hv.trans (h t v ht)

/-- A loop whose iterations store below n stores below n. -/
theorem Env.storesBelow_forStride {stride : Nat} {body : Nat → Work M F → Work M F} {count i : Nat}
    (h : ∀ t (w : Work M F), t < count → e.StoresBelow n w.mem (body (i + t * stride) w).mem) (w : Work M F) :
    e.StoresBelow n w.mem (forStride stride body count i w).mem :=
  forStride_induction (P := fun _ (v : Work M F) => e.StoresBelow n w.mem v.mem) count (.refl e n _)
    fun t v ht hv => hv.trans (h t v ht)

variable (e) (w : Work M F)

/-! ### The micro-operations -/

theorem storesBelow_put_pair {k : Nat} (hk : k < n) (re im : F) : e.StoresBelow n w.mem (w.put e k re im).mem :=
  (e.storesBelow_put hk w.mem .re re).trans (e.storesBelow_put hk _ .im im)

theorem storesBelow_copyElem (real : Bool) {k : Nat} (hk : k < n) :
    e.StoresBelow n w.mem (copyElem e real k w).mem := storesBelow_put_pair e w hk _ _

theorem storesBelow_revVisit {m i : Nat} (hi : i < n) (hrev : rev m i < n) :
    e.StoresBelow n w.mem (revVisit e m i w).mem := by
  simp only [revVisit]
  split
  · exact (storesBelow_put_pair e w hi _ _).trans (storesBelow_put_pair e _ hrev _ _)
  · exact .refl e n _

theorem storesBelow_stagePair {st p : Nat} (hp : p + st < n) : e.StoresBelow n w.mem (stagePair e st p w).mem :=
  (storesBelow_put_pair e w hp _ _).trans (storesBelow_put_pair e _ (by omega) _ _)

theorem storesBelow_scaleElem (len : Nat) {k : Nat} (hk : k < n) :
    e.StoresBelow n w.mem (scaleElem e len k w).mem := storesBelow_put_pair e w hk _ _

theorem storesReal_ladderRot (len : Nat) {level g i j : Nat} (hi : g + level / 2 + i < n)
    (hj : g + level / 2 + j < n) : e.StoresReal n w.mem (ladderRot e len level g i j w).mem :=
  (e.storesReal_put hi w.mem _).trans (e.storesReal_put hj _ _)

theorem storesReal_ladderAddSub {level g i : Nat} (hi : g + level / 2 + i < n) :
    e.StoresReal n w.mem (ladderAddSub e level g i w).mem :=
  (e.storesReal_put (by omega) w.mem _).trans (e.storesReal_put hi _ _)

theorem storesReal_normElem {k : Nat} (hk : k < n) : e.StoresReal n w.mem (normElem e k w).mem :=
  e.storesReal_put hk w.mem _

theorem storesBelow_elementwiseElem (f : Nat → F → F → F) (cost : Nat) {k : Nat} (hk : k < n) :
    e.StoresBelow n w.mem (elementwiseElem e f cost k w).mem := storesBelow_put_pair e w hk _ _

end StoresBelow

/-! ### What a memory of the core is like -/

/-- Canonical, inside the windows, every lane whole (the memory part of the invariant). -/
structure Memory.Sound (m : Memory) : Prop where
  sorted : m.wf
  inWindows : ∀ c ∈ m, Memory.inWindow .src c.1 = true ∨ Memory.inWindow .dst c.1 = true
  lanesWhole : ∀ a, a % 8 = 0 → ∀ j, j < 8 → (m.readByte (a + j)).isSome = (m.readByte a).isSome

theorem Memory.offset_mod_eight (sp : Space) (k : Nat) (l : Lane) : Memory.offset sp k l % 8 = 0 := by
  cases sp <;> cases l <;> simp only [Memory.offset, Memory.window, Memory.laneOffset, Memory.bufBytes_eq] <;> omega

/-- Whether a byte is listed after a store. -/
theorem Memory.isSome_readByte_writeLane (m : Memory) (a b : Nat) (x : F64) :
    ((m.writeLane a x).readByte b).isSome = (decide (a ≤ b ∧ b < a + 8) || (m.readByte b).isSome) := by
  by_cases h : a ≤ b ∧ b < a + 8
  · obtain ⟨j, rfl⟩ := Nat.exists_eq_add_of_le h.1
    simp [Memory.readByte_writeLane_inside m a x (show j < 8 by omega), h]
  · rw [Memory.readByte_writeLane_outside m x (by omega), decide_eq_false h, Bool.false_or]

theorem Memory.Sound.writeLane {m : Memory} (h : m.Sound) (sp : Space) {k : Nat} (hk : k < Config.nmax) (l : Lane)
    (x : F64) : (m.writeLane (Memory.offset sp k l) x).Sound where
  sorted := Memory.wf_writeLane h.sorted _ _
  inWindows c hc := by
    rcases Memory.mem_writeLane hc with ⟨hlo, hhi⟩ | hc
    · have hin := Memory.offset_inWindow sp l hk (j := c.1 - Memory.offset sp k l) (by omega)
      rw [Nat.add_sub_cancel' hlo] at hin
      cases sp
      · exact .inl hin
      · exact .inr hin
    · exact h.inWindows c hc
  lanesWhole a ha j hj := by
    have hmod := Memory.offset_mod_eight sp k l
    rw [Memory.isSome_readByte_writeLane, Memory.isSome_readByte_writeLane, h.lanesWhole a ha j hj]
    congr 1
    exact decide_eq_decide.2 (by omega)

/-- A whole lane is in DST's window or outside it. -/
theorem Memory.inWindow_dst_add {a : Nat} (ha : a % 8 = 0) {j : Nat} (hj : j < 8) :
    Memory.inWindow .dst (a + j) = Memory.inWindow .dst a := by
  simp only [Memory.inWindow, Memory.window, Memory.bufBytes_eq]
  exact decide_eq_decide.2 (by omega)

theorem Memory.Sound.dropDst {m : Memory} (h : m.Sound) : m.dropDst.Sound where
  sorted := Memory.wf_dropDst h.sorted
  inWindows c hc := h.inWindows c (Memory.mem_dropDst hc)
  lanesWhole a ha j hj := by
    rw [Memory.readByte_dropDst, Memory.readByte_dropDst, Memory.inWindow_dst_add ha hj]
    split
    · rfl
    · exact h.lanesWhole a ha j hj

theorem Env.StoresBelow.sound {num : Num F64} {srcSeed dstSeed n : Nat} {m m' : Memory} (hn : n ≤ Config.nmax)
    (h : (bufferEnv num srcSeed dstSeed).StoresBelow n m m') (hm : m.Sound) : m'.Sound :=
  h.keeps (fun _ _ l x hk hm => hm.writeLane .dst (hk.trans_le hn) l x) hm

end Sys2Proof.Machine
end

section
/-! PROOFS. What one turn does at each position of a running command (10_state R35): the position it leads to, the
registers it leaves, and that it comes nearer to the end. -/

namespace Sys2Proof

/-! ### Commands by their operation codes -/

theorem Instr.isFft_iff (i : Instr) : i.isFft = true ↔ i.fields.op = 1 := by cases i <;> decide

theorem Instr.eq_fht_of_isTransform (i : Instr) (h : i.isTransform = true) (hop : i.fields.op ≠ 1) : i = .fht := by
  revert h hop
  cases i <;> decide

theorem Instr.eq_fftInv_of_isFft (i : Instr) (h : i.isFft = true) (hdir : Machine.directionOf i.fields.dir = .inverse) :
    i = .fftInv := by
  revert h hdir
  cases i <;> decide

end Sys2Proof

namespace Sys2Proof.Machine

/-! ### Registers within their widths -/

/-- Tables of NMAX/2 entries and every integer in IDXW bits (the register part of the invariant). -/
structure Regs.Sound {F : Type} (r : Regs F) : Prop where
  htC : r.htC.length = Config.nmax / 2
  htS : r.htS.length = Config.nmax / 2
  inRange : r.inRange

theorem idxWidth_eq : 2 ^ Config.idxWidth = 4096 := by decide

namespace Regs.Sound

variable {F : Type} {r : Regs F} (h : r.Sound)
include h

theorem withK {k : Nat} (hk : k < 4096) : Regs.Sound { r with k := k } := by
  obtain ⟨hC, hS, h1, h2, h3, h4, h5, h6, h7, h8, -⟩ := h
  exact ⟨hC, hS, h1, h2, h3, h4, h5, h6, h7, h8, idxWidth_eq ▸ hk⟩

theorem withIJ {i j : Nat} (hi : i < 4096) (hj : j < 4096) : Regs.Sound { r with i := i, j := j } := by
  obtain ⟨hC, hS, h1, h2, h3, h4, h5, h6, -, -, h9⟩ := h
  exact ⟨hC, hS, h1, h2, h3, h4, h5, h6, idxWidth_eq ▸ hi, idxWidth_eq ▸ hj, h9⟩

theorem withI {i : Nat} (hi : i < 4096) : Regs.Sound { r with i := i } :=
  h.withIJ hi (idxWidth_eq ▸ h.inRange.2.2.2.2.2.2.2.1)

theorem withGP {g p : Nat} (hg : g < 4096) (hp : p < 4096) : Regs.Sound { r with g := g, p := p } := by
  obtain ⟨hC, hS, h1, h2, h3, h4, -, -, h7, h8, h9⟩ := h
  exact ⟨hC, hS, h1, h2, h3, h4, idxWidth_eq ▸ hg, idxWidth_eq ▸ hp, h7, h8, h9⟩

theorem withP {p : Nat} (hp : p < 4096) : Regs.Sound { r with p := p } :=
  h.withGP (idxWidth_eq ▸ h.inRange.2.2.2.2.1) hp

theorem withG {g : Nat} (hg : g < 4096) : Regs.Sound { r with g := g } :=
  h.withGP hg (idxWidth_eq ▸ h.inRange.2.2.2.2.2.1)

theorem withSStep {s : Nat} (hs : s < 4096) : Regs.Sound { r with sStep := s } := by
  obtain ⟨hC, hS, -, h2, h3, h4, h5, h6, h7, h8, h9⟩ := h
  exact ⟨hC, hS, idxWidth_eq ▸ hs, h2, h3, h4, h5, h6, h7, h8, h9⟩

theorem withLevel {scale level : Nat} (hs : scale < 4096) (hl : level < 4096) :
    Regs.Sound { r with scale := scale, level := level } := by
  obtain ⟨hC, hS, h1, h2, -, -, h5, h6, h7, h8, h9⟩ := h
  exact ⟨hC, hS, h1, h2, idxWidth_eq ▸ hl, idxWidth_eq ▸ hs, h5, h6, h7, h8, h9⟩

theorem withEntry {k : Nat} (c sn : F) (hk : k < 4096) :
    Regs.Sound { r with htC := r.htC.set k c, htS := r.htS.set k sn, k := k } := by
  obtain ⟨hC, hS, hrange⟩ := h.withK hk
  exact ⟨by rw [← hC, List.length_set], by rw [← hS, List.length_set], hrange⟩

end Regs.Sound

theorem twSetup_sound {M F : Type} (num : Num F) (dir : Direction) {st : Nat} (hst : 2 * st < 4096) {w : Work M F}
    (h : w.regs.Sound) : (twInit num (twSetup num dir st w)).regs.Sound := by
  obtain ⟨hC, hS, -, -, h3, h4, h5, h6, h7, h8, h9⟩ := h
  exact ⟨hC, hS, idxWidth_eq ▸ (show st < 4096 by omega), idxWidth_eq ▸ hst, h3, h4, h5, h6, h7, h8, h9⟩

/-! ### The assignments at the end of a group -/

theorem stageGroupTail_next {st g : Nat} (h : g + 1 < st) (w : Work Memory F64) :
    stageGroupTail st g w = stageGroupEnter (g + 1) w := if_pos h

theorem stageGroupTail_last {st g : Nat} (h : ¬ g + 1 < st) (w : Work Memory F64) :
    stageGroupTail st g w = setStep (2 * st) w := if_neg h

/-! ### How far a position is from the end -/

/-- A number that every turn of a running command lowers: the phase first, then its counters from the outer loop to the
inner one, each as what is left of it. -/
def Seq.rank : Seq → Nat
  | .idle => 0
  | .complete => 1
  | .elementwise k => 2 + (1024 - k)
  | .scaleN k => 2 + (1024 - k)
  | .htNorm k => 2 + (1024 - k)
  | .fftStage s g p phase =>
    4096 + ((1024 - s) * 4096 + (match phase with | .setup => 2048 | .pair => 1024 - g | .advance => 1024 - g)) * 4096 +
      (match phase with | .setup => 0 | .pair => 1 + (1024 - p) | .advance => 0)
  | .htRot level g i _ => 4096 + ((1024 - level) * 4096 + (1024 - g)) * 4096 + (2048 + (1024 - i))
  | .htAddSub level g i => 4096 + ((1024 - level) * 4096 + (1024 - g)) * 4096 + (1024 - i)
  | .htTable k => 2 ^ 40 + (1024 - k)
  | .bitRev k => 2 ^ 41 + (1024 - k)
  | .copyIn k => 2 ^ 42 + (1024 - k)
  | .validate => 2 ^ 43

/-! ### The positions a turn leads to -/

theorem groupStart_okFor {n level g : Nat} (hlevel : ∃ t, level = 2 ^ (t + 1)) (hle : level ≤ n) (hdvd : level ∣ g)
    (hg : g < n) : (groupStart level g).okFor .fht n := by
  have hhalf : 0 < level / 2 := by
    obtain ⟨t, rfl⟩ := hlevel
    rw [pow_succ, Nat.mul_div_cancel _ two_pos]
    positivity
  rw [groupStart]
  split
  next h => exact ⟨rfl, hlevel, hle, hdvd, hg, le_rfl, h, by omega⟩
  next => exact ⟨rfl, hlevel, hle, hdvd, hg, hhalf⟩

theorem groupStart_rank (level g : Nat) :
    (groupStart level g).rank < 4096 + ((1024 - level) * 4096 + (1024 - g)) * 4096 + 4096 := by
  rw [groupStart]
  split <;> simp only [Seq.rank] <;> omega

/-- A larger group or level of the ladder begins nearer to the end. -/
theorem groupStart_follow {F : Type} {n level g : Nat} {r : Regs F} (hlevel : r.level = level)
    (hscale : r.scale = n / level) (hg : r.g = g) (hi : r.i = 1) (hj : r.j = level / 2 - 1) :
    r.follow n (groupStart level g) := by
  rw [groupStart]
  split
  · exact ⟨hlevel, hscale, hg, hi, hj⟩
  · exact ⟨hlevel, hscale, hg⟩

/-! ### One turn of a running command -/

/-- The second element of a pair. -/
theorem pair_lt {n st g p : Nat} (hdvd : 2 * st ∣ n) (hg : g < st) (hp : p < n) (hmod : p % (2 * st) = g) :
    p + st < n := by
  obtain ⟨c, rfl⟩ := hdvd
  have hq : p / (2 * st) < c := Nat.div_lt_of_lt_mul hp
  have hle := Nat.mul_le_mul_left (2 * st) hq
  have hdiv := Nat.div_add_mod p (2 * st)
  rw [Nat.mul_succ] at hle
  omega

/-- The end of a group of the ladder. -/
theorem add_le_of_dvd {n level g : Nat} (hn : level ∣ n) (hg : level ∣ g) (hlt : g < n) : g + level ≤ n := by
  obtain ⟨c, rfl⟩ := hn
  obtain ⟨d, rfl⟩ := hg
  rw [← Nat.mul_succ]
  exact Nat.mul_le_mul_left level (Nat.lt_of_mul_lt_mul_left hlt)

/-- A core that runs command i on a length that passed validation. -/
structure State.Runs (s : State) (i : Instr) : Prop where
  cmd : s.cmd = some (encode i)
  valid : validateLength i s.nAct.toNat = none
  opAct : s.opAct = i.fields.op
  dAct : s.dAct = directionOf i.fields.dir

/-- The next turn does w to the working data and leads to position q of the same command. -/
structure State.Moves (s : State) (i : Instr) (w : Work Memory F64) (q : Seq) : Prop where
  turn : s.turn = s.place q w
  ok : q.okFor i s.nAct.toNat
  stores : s.env.StoresBelow s.nAct.toNat s.mem w.mem
  sound : s.regs.Sound → w.regs.Sound
  follow : s.regs.follow s.nAct.toNat s.seq → w.regs.follow s.nAct.toNat q
  rank : q.rank < s.seq.rank

theorem le_of_validateLength {i : Instr} {n : Nat} (h : validateLength i n = none) : n ≤ 1024 := by
  have hvalid : ¬ lengthInvalid i n = true := fun hl => by simp [validateLength, hl] at h
  exact Memory.nmax_eq ▸ Nat.le_of_not_lt fun hl => by simp [validateLength, hvalid, hl] at h

/-- A move that changes nothing but the position. -/
theorem State.Moves.of_goto {s : State} {i : Instr} {q : Seq} (turn : s.turn = s.goto q) (ok : q.okFor i s.nAct.toNat)
    (follow : s.regs.follow s.nAct.toNat s.seq → s.regs.follow s.nAct.toNat q) (rank : q.rank < s.seq.rank) :
    s.Moves i s.work q :=
  ⟨turn, ok, .refl _ _ _, id, follow, rank⟩

section Positions

variable {s : State} {i : Instr} (h : s.Runs i)
include h

theorem State.Runs.le : s.nAct.toNat ≤ 1024 := le_of_validateLength h.valid

theorem State.Runs.pow (hi : i.isTransform = true) : ∃ m, 1 ≤ m ∧ s.nAct.toNat = 2 ^ m := by
  obtain ⟨m, hm, -, hpow⟩ := exists_pow_of_validateLength hi h.valid
  exact ⟨m, hm, hpow⟩

theorem moves_copyIn {k : Nat} (hseq : s.seq = .copyIn k) (hok : (Seq.copyIn k).okFor i s.nAct.toNat) :
    ∃ w q, s.Moves i w q := by
  obtain ⟨htransform, hk⟩ := hok
  have hle := h.le
  by_cases hlt : k < s.nAct.toNat
  · refine ⟨copyElem s.env (s.opAct == 2) k s.work, .copyIn (k + 1), ?_, ⟨htransform, hlt⟩,
      storesBelow_copyElem s.env s.work _ hlt, fun hr => hr.withK (by omega), fun _ => trivial, ?_⟩
    · rw [State.turn, hseq]
      exact if_pos hlt
    · rw [hseq]; simp only [Seq.rank]; omega
  · refine ⟨s.work, .bitRev 0, .of_goto ?_ ⟨htransform, Nat.zero_le _⟩ (fun _ => trivial) ?_⟩
    · rw [State.turn, hseq]
      exact if_neg hlt
    · rw [hseq]; simp only [Seq.rank]; omega

theorem moves_bitRev {k : Nat} (hseq : s.seq = .bitRev k) (hok : (Seq.bitRev k).okFor i s.nAct.toNat) :
    ∃ w q, s.Moves i w q := by
  obtain ⟨htransform, hk⟩ := hok
  have hle := h.le
  obtain ⟨m, hm, hpow⟩ := h.pow htransform
  by_cases hlt : k < s.nAct.toNat
  · have hrev : rev (Nat.log2 s.nAct.toNat) k < s.nAct.toNat := by
      have := rev_lt m k
      rwa [hpow, Nat.log2_two_pow]
    refine ⟨revVisit s.env (Nat.log2 s.nAct.toNat) k s.work, .bitRev (k + 1), ?_, ⟨htransform, hlt⟩,
      storesBelow_revVisit s.env s.work hlt hrev, fun hr => ?_, fun _ => trivial, ?_⟩
    · rw [State.turn, hseq]
      exact if_pos hlt
    · have hregs : (revVisit s.env (Nat.log2 s.nAct.toNat) k s.work).regs =
          { s.regs with i := k, j := rev (Nat.log2 s.nAct.toNat) k } := by
        simp only [revVisit]
        split <;> rfl
      rw [hregs]
      exact hr.withIJ (by omega) (by omega)
    · rw [hseq]; simp only [Seq.rank]; omega
  by_cases hop : s.opAct = 1
  · have hfft : i.isFft = true := i.isFft_iff.2 (h.opAct ▸ hop)
    refine ⟨setStep 1 s.work, stageStart 1, ?_, ⟨hfft, ⟨0, rfl⟩, ?_, rfl, rfl⟩, .refl _ _ _,
      fun hr => hr.withSStep (by omega), fun _ => ⟨rfl, trivial⟩, ?_⟩
    · rw [State.turn, hseq]
      exact (if_neg hlt).trans (if_pos hop)
    · rw [hpow]; exact Nat.one_lt_two_pow (by omega)
    · rw [hseq]; simp only [stageStart, Seq.rank]; omega
  · have hfht : i = .fht := i.eq_fht_of_isTransform htransform (h.opAct ▸ hop)
    refine ⟨s.work, .htTable 0, .of_goto ?_ ⟨hfht, Nat.zero_le _⟩ (fun _ => trivial) ?_⟩
    · rw [State.turn, hseq]
      exact (if_neg hlt).trans (if_neg hop)
    · rw [hseq]; simp only [Seq.rank]; omega

/-! #### The stages (42_fft R112) -/

/-- In a stage of N = 2^m points, two groups' distance still fits. -/
theorem State.Runs.two_mul_le (hfft : i.isFft = true) {st : Nat} (hst : ∃ t, st = 2 ^ t) (hlt : st < s.nAct.toNat) :
    0 < st ∧ 2 * st ∣ s.nAct.toNat ∧ 2 * st ≤ s.nAct.toNat := by
  obtain ⟨m, hm, hpow⟩ := h.pow (by simp [Instr.isTransform, hfft])
  obtain ⟨t, rfl⟩ := hst
  rw [hpow] at hlt ⊢
  have hdvd : 2 * 2 ^ t ∣ 2 ^ m := by
    rw [← pow_succ']
    exact Nat.pow_dvd_pow 2 ((Nat.pow_lt_pow_iff_right (by decide)).1 hlt)
  exact ⟨by positivity, hdvd, Nat.le_of_dvd (by positivity) hdvd⟩

theorem moves_setup {st g p : Nat} (hseq : s.seq = .fftStage st g p .setup)
    (hok : (Seq.fftStage st g p .setup).okFor i s.nAct.toNat) : ∃ w q, s.Moves i w q := by
  obtain ⟨hfft, hst, hlt, rfl, rfl⟩ := hok
  obtain ⟨hpos, hdvd, htwo⟩ := h.two_mul_le hfft hst hlt
  have hle := h.le
  refine ⟨stageGroupEnter 0 (twInit s.env.num (twSetup s.env.num s.dAct st s.work)), .fftStage st 0 0 .pair, ?_,
    ⟨hfft, hst, hlt, hpos, hpos.trans hlt, Nat.zero_mod _⟩, .refl _ _ _, fun hr => ?_,
    fun _ => ⟨rfl, rfl, rfl, rfl⟩, ?_⟩
  · rw [State.turn, hseq]
    rfl
  · exact (twSetup_sound s.env.num s.dAct (by omega) (w := s.work) hr).withGP (by omega) (by omega)
  · rw [hseq]; simp only [Seq.rank]; omega

theorem moves_pair {st g p : Nat} (hseq : s.seq = .fftStage st g p .pair)
    (hok : (Seq.fftStage st g p .pair).okFor i s.nAct.toNat) : ∃ w q, s.Moves i w q := by
  obtain ⟨hfft, hst, hlt, hg, hp, hmod⟩ := hok
  obtain ⟨hpos, hdvd, htwo⟩ := h.two_mul_le hfft hst hlt
  have hle := h.le
  have hpst := pair_lt hdvd hg hp hmod
  refine ⟨stagePair s.env st p s.work, afterPair s.nAct.toNat st g p, ?_, ?_,
    storesBelow_stagePair s.env s.work hpst, fun hr => hr.withP (by omega), fun hf => ?_, ?_⟩
  · rw [State.turn, hseq]
    rfl
  · rw [afterPair]
    split
    · exact ⟨hfft, hst, hlt, hg, by assumption, by rw [Nat.add_mod_right, hmod]⟩
    · exact ⟨hfft, hst, hlt, hg, by omega, by omega⟩
  · rw [hseq] at hf
    obtain ⟨hstep, hjump, hrg, -⟩ := hf
    rw [afterPair]
    split <;> exact ⟨hstep, hjump, hrg, rfl⟩
  · rw [hseq, afterPair]
    split <;> simp only [Seq.rank] <;> omega

theorem moves_advance {st g p : Nat} (hseq : s.seq = .fftStage st g p .advance)
    (hok : (Seq.fftStage st g p .advance).okFor i s.nAct.toNat) : ∃ w q, s.Moves i w q := by
  obtain ⟨hfft, hst, hlt, hg, -, -⟩ := hok
  obtain ⟨hpos, hdvd, htwo⟩ := h.two_mul_le hfft hst hlt
  have hle := h.le
  have hturn : s.turn =
      s.place (afterGroup s.dAct s.nAct.toNat st g) (stageGroupTail st g (twAdv s.env.num s.work)) := by
    rw [State.turn, hseq]
    rfl
  have hstores : s.env.StoresBelow s.nAct.toNat s.mem (stageGroupTail st g (twAdv s.env.num s.work)).mem := by
    rw [stageGroupTail_mem]
    exact .refl _ _ _
  refine ⟨_, _, hturn, ?_, hstores, fun hr => ?_, fun hf => ?_, ?_⟩
  · by_cases hnext : g + 1 < st
    · rw [afterGroup_of_lt hnext]
      exact ⟨hfft, hst, hlt, hnext, by omega, Nat.mod_eq_of_lt (by omega)⟩
    rw [afterGroup_last hnext]
    split
    next h2 =>
      obtain ⟨t, rfl⟩ := hst
      exact ⟨hfft, ⟨t + 1, (pow_succ' 2 t).symm⟩, h2, rfl, rfl⟩
    next =>
      cases hd : s.dAct
      · exact trivial
      · exact ⟨i.eq_fftInv_of_isFft hfft (h.dAct ▸ hd), Nat.zero_le _⟩
  · have hr' : (twAdv s.env.num s.work).regs.Sound := ⟨hr.htC, hr.htS, hr.inRange⟩
    rw [stageGroupTail]
    split
    · exact hr'.withGP (by omega) (by omega)
    · exact hr'.withSStep (by omega)
  · rw [hseq] at hf
    obtain ⟨hstep, hjump, -, -⟩ := hf
    by_cases hnext : g + 1 < st
    · rw [afterGroup_of_lt hnext, stageGroupTail_next hnext]
      exact ⟨hstep, hjump, rfl, rfl⟩
    rw [afterGroup_last hnext, stageGroupTail_last hnext]
    split
    next => exact ⟨rfl, trivial⟩
    next h2 =>
      cases s.dAct
      · exact trivial
      · exact ⟨show 2 * st = s.nAct.toNat by omega, hjump.trans (by omega)⟩
  · rw [hseq]
    by_cases hnext : g + 1 < st
    · rw [afterGroup_of_lt hnext]
      simp only [Seq.rank]
      omega
    rw [afterGroup_last hnext]
    split
    next => simp only [stageStart, Seq.rank]; omega
    next => cases s.dAct <;> simp only [afterStages, Seq.rank] <;> omega

theorem moves_scaleN {k : Nat} (hseq : s.seq = .scaleN k) (hok : (Seq.scaleN k).okFor i s.nAct.toNat) :
    ∃ w q, s.Moves i w q := by
  obtain ⟨hinv, hk⟩ := hok
  have hle := h.le
  by_cases hlt : k < s.nAct.toNat
  · refine ⟨scaleElem s.env s.nAct.toNat k s.work, .scaleN (k + 1), ?_, ⟨hinv, hlt⟩,
      storesBelow_scaleElem s.env s.work _ hlt, fun hr => hr.withK (by omega), fun hf => ?_, ?_⟩
    · rw [State.turn, hseq]
      exact if_pos hlt
    · rw [hseq] at hf
      exact hf
    · rw [hseq]; simp only [Seq.rank]; omega
  · refine ⟨s.work, .complete, .of_goto ?_ trivial (fun _ => trivial) ?_⟩
    · rw [State.turn, hseq]
      exact if_neg hlt
    · rw [hseq]; simp only [Seq.rank]; omega

theorem moves_elementwise {k : Nat} (hseq : s.seq = .elementwise k)
    (hok : (Seq.elementwise k).okFor i s.nAct.toNat) : ∃ w q, s.Moves i w q := by
  obtain ⟨hspectral, hk⟩ := hok
  have hle := h.le
  by_cases hlt : k < s.nAct.toNat
  · refine ⟨if s.opAct = 3 then magElem s.env k s.work else phaseElem s.env k s.work, .elementwise (k + 1), ?_,
      ⟨hspectral, hlt⟩, ?_, fun hr => ?_, fun _ => trivial, ?_⟩
    · rw [State.turn, hseq]
      refine (if_pos hlt).trans ?_
      split <;> rfl
    · split <;> exact storesBelow_elementwiseElem s.env s.work _ _ hlt
    · split <;> exact hr.withK (by omega)
    · rw [hseq]; simp only [Seq.rank]; omega
  · refine ⟨s.work, .complete, .of_goto ?_ trivial (fun _ => trivial) ?_⟩
    · rw [State.turn, hseq]
      exact if_neg hlt
    · rw [hseq]; simp only [Seq.rank]; omega

/-! #### The table, the ladder and the normalisation (43_hartley R130, R133 to R135) -/

theorem moves_htTable {k : Nat} (hseq : s.seq = .htTable k) (hok : (Seq.htTable k).okFor i s.nAct.toNat) :
    ∃ w q, s.Moves i w q := by
  obtain ⟨rfl, hk⟩ := hok
  have hle := h.le
  obtain ⟨m, hm, hpow⟩ := h.pow rfl
  have htwo : 2 ≤ s.nAct.toNat := hpow ▸ Nat.le_self_pow (by omega) 2
  by_cases hlt : k < s.nAct.toNat / 2
  · refine ⟨tableEntry s.env.num s.nAct.toNat k s.work, .htTable (k + 1), ?_, ⟨rfl, hlt⟩, .refl _ _ _,
      fun hr => hr.withEntry _ _ (by omega), fun _ => trivial, ?_⟩
    · rw [State.turn, hseq]
      exact if_pos hlt
    · rw [hseq]; simp only [Seq.rank]; omega
  · refine ⟨ladderGroupEnter 2 (levelEnter (ladderEnter s.nAct.toNat s.work)), groupStart 2 0, ?_,
      groupStart_okFor ⟨0, rfl⟩ htwo (dvd_zero 2) (by omega), .refl _ _ _, fun hr => ?_,
      fun _ => groupStart_follow rfl rfl rfl rfl rfl, ?_⟩
    · rw [State.turn, hseq]
      exact if_neg hlt
    · exact ((hr.withLevel (by omega) (by omega)).withG (by omega)).withIJ (by omega) (by omega)
    · refine (groupStart_rank 2 0).trans ?_
      rw [hseq]; simp only [Seq.rank]; omega

/-- A level of the ladder on N = 2^m points: its groups fill N, and it is the last or the next one fits. -/
theorem State.Runs.level (hi : i.isTransform = true) {level : Nat} (hlevel : ∃ t, level = 2 ^ (t + 1))
    (hle : level ≤ s.nAct.toNat) :
    0 < level / 2 ∧ 2 * (level / 2) = level ∧ level ∣ s.nAct.toNat ∧
      (2 * level ≤ s.nAct.toNat ∨ level = s.nAct.toNat) := by
  obtain ⟨m, -, hpow⟩ := h.pow hi
  obtain ⟨t, rfl⟩ := hlevel
  rw [hpow] at hle ⊢
  have htm := (Nat.pow_le_pow_iff_right (by decide)).1 hle
  rw [← pow_succ', pow_succ 2 t, Nat.mul_div_cancel _ two_pos, ← pow_succ, ← pow_succ']
  refine ⟨by positivity, rfl, Nat.pow_dvd_pow 2 htm, ?_⟩
  rcases htm.lt_or_eq with hlt | heq
  · exact .inl (Nat.pow_le_pow_right two_pos hlt)
  · exact .inr (by rw [heq])

theorem moves_htRot {level g a b : Nat} (hseq : s.seq = .htRot level g a b)
    (hok : (Seq.htRot level g a b).okFor i s.nAct.toNat) : ∃ w q, s.Moves i w q := by
  obtain ⟨rfl, hlevel, hlev, hdvd, hg, ha, hab, hsum⟩ := hok
  have hle := h.le
  obtain ⟨hhalf, htwo, hdvdn, -⟩ := h.level rfl hlevel hlev
  have hgroup := add_le_of_dvd hdvdn hdvd hg
  refine ⟨ladderRot s.env s.nAct.toNat level g a b s.work, afterRot level g a b, ?_, ?_,
    (storesReal_ladderRot s.env s.work _ (by omega) (by omega)).storesBelow, fun hr => hr.withIJ (by omega) (by omega),
    fun hf => ?_, ?_⟩
  · rw [State.turn, hseq]
    rfl
  · rw [afterRot]
    split
    · exact ⟨rfl, hlevel, hlev, hdvd, hg, by omega, by assumption, by omega⟩
    · exact ⟨rfl, hlevel, hlev, hdvd, hg, hhalf⟩
  · rw [hseq] at hf
    obtain ⟨hrl, hrs, hrg, -, -⟩ := hf
    rw [afterRot]
    split
    · exact ⟨hrl, hrs, hrg, rfl, rfl⟩
    · exact ⟨hrl, hrs, hrg⟩
  · rw [hseq, afterRot]
    split <;> simp only [Seq.rank] <;> omega

theorem moves_htAddSub {level g a : Nat} (hseq : s.seq = .htAddSub level g a)
    (hok : (Seq.htAddSub level g a).okFor i s.nAct.toNat) : ∃ w q, s.Moves i w q := by
  obtain ⟨rfl, hlevel, hlev, hdvd, hg, ha⟩ := hok
  have hle := h.le
  obtain ⟨hhalf, htwo, hdvdn, hnext⟩ := h.level rfl hlevel hlev
  have hgroup := add_le_of_dvd hdvdn hdvd hg
  have hlevel' : ∃ t, 2 * level = 2 ^ (t + 1) := by
    obtain ⟨t, rfl⟩ := hlevel
    exact ⟨t + 1, (pow_succ' 2 _).symm⟩
  have hturn : s.turn = s.place (afterAddSub s.nAct.toNat level g a)
      (addSubTail s.nAct.toNat level g a (ladderAddSub s.env level g a s.work)) := by
    rw [State.turn, hseq]
    rfl
  have hstores : s.env.StoresBelow s.nAct.toNat s.mem
      (addSubTail s.nAct.toNat level g a (ladderAddSub s.env level g a s.work)).mem := by
    rw [addSubTail_mem]
    exact (storesReal_ladderAddSub s.env s.work (by omega)).storesBelow
  have hscale : s.nAct.toNat / level ≤ s.nAct.toNat := Nat.div_le_self _ _
  refine ⟨_, _, hturn, ?_, hstores, fun hr => ?_, fun hf => ?_, ?_⟩
  · rw [afterAddSub]
    split_ifs with hcomb hgrp hlvl
    · exact ⟨rfl, hlevel, hlev, hdvd, hg, hcomb⟩
    · exact groupStart_okFor hlevel hlev (hdvd.add (dvd_refl level)) hgrp
    · exact groupStart_okFor hlevel' hlvl (dvd_zero _) (by omega)
    · exact ⟨rfl, Nat.zero_le _⟩
  · have hr' : (ladderAddSub s.env level g a s.work).regs.Sound := hr.withI (by omega)
    have hleave := hr'.withG (g := g + level) (by omega)
    simp only [addSubTail]
    split_ifs
    · exact hr'
    · exact hleave.withIJ (by omega) (by omega)
    · exact ((hleave.withLevel (by omega) (by omega)).withG (by omega)).withIJ (by omega) (by omega)
    · exact hleave.withLevel (by omega) (by omega)
  · rw [hseq] at hf
    obtain ⟨hrl, hrs, hrg⟩ := hf
    simp only [afterAddSub, addSubTail]
    split_ifs with hcomb hgrp hlvl
    · exact ⟨hrl, hrs, hrg⟩
    · exact groupStart_follow hrl hrs rfl rfl rfl
    · exact groupStart_follow rfl (by rw [Nat.mul_comm 2, ← Nat.div_div_eq_div_mul]; rfl) rfl rfl rfl
    · obtain rfl : level = s.nAct.toNat := hnext.resolve_left hlvl
      have hg0 : g = 0 := by omega
      have hone : s.nAct.toNat / s.nAct.toNat = 1 := Nat.div_self (by omega)
      refine ⟨rfl, ?_, ?_⟩
      · show s.nAct.toNat / s.nAct.toNat / 2 = 0
        rw [hone]
      · show g + s.nAct.toNat = s.nAct.toNat
        rw [hg0, Nat.zero_add]
  · rw [hseq, afterAddSub]
    split_ifs
    · simp only [Seq.rank]; omega
    · refine (groupStart_rank _ _).trans_le ?_
      simp only [Seq.rank]; omega
    · refine (groupStart_rank _ _).trans_le ?_
      simp only [Seq.rank]; omega
    · simp only [Seq.rank]; omega

theorem moves_htNorm {k : Nat} (hseq : s.seq = .htNorm k) (hok : (Seq.htNorm k).okFor i s.nAct.toNat) :
    ∃ w q, s.Moves i w q := by
  obtain ⟨rfl, hk⟩ := hok
  have hle := h.le
  by_cases hlt : k < s.nAct.toNat
  · refine ⟨normElem s.env k (if k = 0 then normRoot s.env.num s.nAct.toNat s.work else s.work), .htNorm (k + 1), ?_,
      ⟨rfl, hlt⟩, ?_, fun hr => ?_, fun hf => ?_, ?_⟩
    · rw [State.turn, hseq]
      exact if_pos hlt
    · split
      · exact (storesReal_normElem s.env (normRoot s.env.num s.nAct.toNat s.work) hlt).storesBelow
      · exact (storesReal_normElem s.env s.work hlt).storesBelow
    · split
      · have hroot : (normRoot s.env.num s.nAct.toNat s.work).regs.Sound := ⟨hr.htC, hr.htS, hr.inRange⟩
        exact hroot.withK (by omega)
      · exact hr.withK (by omega)
    · rw [hseq] at hf
      split <;> exact hf
    · rw [hseq]; simp only [Seq.rank]; omega
  · refine ⟨s.work, .complete, .of_goto ?_ trivial (fun _ => trivial) ?_⟩
    · rw [State.turn, hseq]
      exact if_neg hlt
    · rw [hseq]; simp only [Seq.rank]; omega

/-- All that a turn of a running command can do: its completion, or a move to another of its positions. -/
theorem turn_cases (hok : s.seq.okFor i s.nAct.toNat) :
    (s.seq = .complete ∧ s.turn = s.complete) ∨ ∃ w q, s.Moves i w q := by
  cases hseq : s.seq with
  | idle => rw [hseq] at hok; exact hok.elim
  | validate => rw [hseq] at hok; exact hok.elim
  | copyIn k => exact .inr (moves_copyIn h hseq (hseq ▸ hok))
  | bitRev k => exact .inr (moves_bitRev h hseq (hseq ▸ hok))
  | fftStage st g p phase =>
    cases phase with
    | setup => exact .inr (moves_setup h hseq (hseq ▸ hok))
    | pair => exact .inr (moves_pair h hseq (hseq ▸ hok))
    | advance => exact .inr (moves_advance h hseq (hseq ▸ hok))
  | scaleN k => exact .inr (moves_scaleN h hseq (hseq ▸ hok))
  | htTable k => exact .inr (moves_htTable h hseq (hseq ▸ hok))
  | htRot level g a b => exact .inr (moves_htRot h hseq (hseq ▸ hok))
  | htAddSub level g a => exact .inr (moves_htAddSub h hseq (hseq ▸ hok))
  | htNorm k => exact .inr (moves_htNorm h hseq (hseq ▸ hok))
  | elementwise k => exact .inr (moves_elementwise h hseq (hseq ▸ hok))
  | complete => exact .inl ⟨rfl, by rw [State.turn, hseq]⟩

end Positions

end Sys2Proof.Machine
end

section
/-! PROOFS. The invariant (10_state, 70_reset R199): every event keeps it, the loop registers follow the position along
it, and a BUSY core comes to its end. -/

namespace Sys2Proof.Machine

/-! ### The parts of the invariant -/

namespace State.Inv

variable {s : State} (h : s.Inv)
include h

theorem memSound : s.mem.Sound := ⟨h.memSorted, h.memInWindows, h.lanesWhole⟩

theorem regsSound : s.regs.Sound := ⟨h.tables.1, h.tables.2, h.counters⟩

/-- LEN, the events, the port's answer and the free values are no part of the invariant. -/
theorem withHost (len : LenWord) (draw : Nat) (events : List Event) (resp : Response) :
    ({ s with len := len, draw := draw, events := events, resp := resp } : State).Inv :=
  ⟨h.memSorted, h.memInWindows, h.lanesWhole, h.busyWhenRunning, h.cmdWhenRunning, h.latched, h.errWhenError,
    h.rlenWhenDone, h.tables, h.counters, h.position⟩

theorem withMem {m : Memory} (hm : m.Sound) (draw dstSeed : Nat) (resp : Response) :
    ({ s with mem := m, draw := draw, dstSeed := dstSeed, resp := resp } : State).Inv :=
  ⟨hm.sorted, hm.inWindows, hm.lanesWhole, h.busyWhenRunning, h.cmdWhenRunning, h.latched, h.errWhenError,
    h.rlenWhenDone, h.tables, h.counters, h.position⟩

theorem busy_iff : s.busy = true ↔ s.seq ≠ .idle := s.busy_iff.trans h.busyWhenRunning

theorem seq_of_not_busy (hb : s.busy = false) : s.seq = .idle := by
  by_contra hne
  simp [h.busy_iff.2 hne] at hb

theorem rlen_of_running (hseq : s.seq ≠ .idle) : s.rlen = 0 := h.rlen_of_busy (h.busy_iff.2 hseq)

/-- A word is held while the sequencer is not idle. -/
theorem exists_cmd (hseq : s.seq ≠ .idle) : ∃ w, s.cmd = some w := Option.isSome_iff_exists.1 (h.cmdWhenRunning.2 hseq)

theorem runs {i : Instr} (hcmd : s.cmd = some (encode i)) (hv : validateLength i s.nAct.toNat = none) : s.Runs i := by
  obtain ⟨hop, hdir, -, -⟩ := h.latched _ hcmd
  exact ⟨hcmd, hv, hop.trans (encode_op i), hdir.trans (congrArg directionOf (encode_dir i))⟩

/-! ### What keeps it -/

theorem accept (w : Word) : (s.accept w).Inv where
  memSorted := h.memSorted
  memInWindows := h.memInWindows
  lanesWhole := h.lanesWhole
  busyWhenRunning := by simp
  cmdWhenRunning := by simp
  latched w' hw := by
    obtain rfl := Option.some.inj hw
    exact ⟨rfl, rfl, rfl, rfl⟩
  errWhenError := by simp
  rlenWhenDone := by simp
  tables := h.tables
  counters := h.counters
  position := .inr (.inl rfl)

theorem refuse (hseq : s.seq ≠ .idle) {k : ErrorKind} (hk : k.raised = true) : (s.refuse k).Inv where
  memSorted := h.memSorted
  memInWindows := h.memInWindows
  lanesWhole := h.lanesWhole
  busyWhenRunning := by simp
  cmdWhenRunning := by simp
  latched := nofun
  errWhenError := by simpa using hk
  rlenWhenDone := by simp [h.rlen_of_running hseq]
  tables := h.tables
  counters := h.counters
  position := .inl rfl

theorem complete {i : Instr} (hr : s.Runs i) (hseq : s.seq ≠ .idle) : s.complete.Inv where
  memSorted := h.memSorted
  memInWindows := h.memInWindows
  lanesWhole := h.lanesWhole
  busyWhenRunning := by simp
  cmdWhenRunning := by simp
  latched := nofun
  errWhenError := by
    have hbusy := h.busyWhenRunning.2 hseq
    simpa using h.errWhenError.1 (by simp [hbusy])
  rlenWhenDone := ⟨fun hne => absurd rfl hne, Memory.nmax_eq ▸ hr.le⟩
  tables := h.tables
  counters := h.counters
  position := .inl rfl

/-- A running core at another position of its command, with sound working data. -/
theorem place {i : Instr} (hr : s.Runs i) (hseq : s.seq ≠ .idle) {q : Seq} {w : Work Memory F64}
    (hq : q.okFor i s.nAct.toNat) (hm : w.mem.Sound) (hw : w.regs.Sound) : (s.place q w).Inv where
  memSorted := hm.sorted
  memInWindows := hm.inWindows
  lanesWhole := hm.lanesWhole
  busyWhenRunning := iff_of_true (h.busyWhenRunning.2 hseq) (by rintro (rfl : q = .idle); exact hq)
  cmdWhenRunning := iff_of_true (h.cmdWhenRunning.2 hseq) (by rintro (rfl : q = .idle); exact hq)
  latched := h.latched
  errWhenError := h.errWhenError
  rlenWhenDone := h.rlenWhenDone
  tables := ⟨hw.htC, hw.htS⟩
  counters := hw.inRange
  position := .inr (.inr ⟨i, hr.cmd, hr.valid, hq⟩)

theorem begin : s.begin.Inv := h.withMem h.memSound.dropDst (s.draw + 1) (s.draw + 1) s.resp

end State.Inv

/-! ### Turns -/

/-- All that a turn can do from a state with the invariant. -/
inductive State.TurnResult (s : State) : State → Prop
  | idle (hseq : s.seq = .idle) : s.TurnResult s
  | refused (hseq : s.seq = .validate) (k : ErrorKind) (hk : k.raised = true) : s.TurnResult (s.refuse k)
  | begun (hseq : s.seq = .validate) (i : Instr) (hr : s.Runs i) :
      s.TurnResult (s.begin.goto (firstPosition (.ok i)))
  | moved (hseq : s.seq ≠ .idle) (i : Instr) (w : Work Memory F64) (q : Seq) (hr : s.Runs i) (hm : s.Moves i w q) :
      s.TurnResult (s.place q w)
  | completed (hseq : s.seq = .complete) (i : Instr) (hr : s.Runs i) : s.TurnResult s.complete

/-- Validation raises kinds of the core's own only. -/
theorem raised_of_validate {d : Decoded} {n : Nat} {k : ErrorKind} (h : validate d n = some k) : k.raised = true := by
  cases d with
  | illegal r =>
    obtain rfl := Option.some.inj h
    rfl
  | ok i =>
    simp only [validate, validateLength] at h
    split_ifs at h <;> obtain rfl := Option.some.inj h <;> rfl

theorem turnResult {s : State} (h : s.Inv) : s.TurnResult s.turn := by
  obtain hseq | hseq | ⟨i, hcmd, hv, hok⟩ := h.position
  · rw [State.turn, hseq]
    exact .idle hseq
  · obtain ⟨w, hcmd⟩ := h.exists_cmd (by rw [hseq]; decide)
    rw [State.turn, hseq]
    cases hv : validate (decode w) s.nAct.toNat with
    | some k =>
      rw [validateTurn_refused hcmd hv]
      exact .refused hseq k (raised_of_validate hv)
    | none =>
      cases hd : decode w with
      | illegal r => rw [hd] at hv; contradiction
      | ok i =>
        obtain rfl := eq_encode_of_decode hd
        rw [validateTurn_passed hcmd hv, hd]
        exact .begun hseq i (h.runs hcmd (by rwa [hd] at hv))
  · have hr := h.runs hcmd hv
    obtain ⟨hseq, hturn⟩ | ⟨w, q, hm⟩ := turn_cases hr hok
    · exact hturn ▸ .completed hseq i hr
    · exact hm.turn ▸ .moved (by rintro hseq; rw [hseq] at hok; exact hok) i w q hr hm

theorem firstPosition_okFor (i : Instr) (n : Nat) : (firstPosition (.ok i)).okFor i n := by
  cases i <;> exact ⟨rfl, Nat.zero_le n⟩

theorem State.Inv.turn {s : State} (h : s.Inv) : s.turn.Inv := by
  have hturn := turnResult h
  generalize s.turn = t at hturn ⊢
  cases hturn with
  | idle => exact h
  | refused hseq k hk => exact h.refuse (by rw [hseq]; decide) hk
  | begun hseq i hr =>
    exact h.begin.place (w := s.begin.work) ⟨hr.cmd, hr.valid, hr.opAct, hr.dAct⟩
      (by rw [State.begin_seq, hseq]; decide) (firstPosition_okFor i _) h.begin.memSound h.regsSound
  | moved hseq i w q hr hm =>
    exact h.place hr hseq hm.ok (hm.stores.sound (Memory.nmax_eq ▸ hr.le) h.memSound) (hm.sound h.regsSound)
  | completed hseq i hr => exact h.complete hr (by rw [hseq]; decide)

theorem State.Inv.reaches {s t : State} (h : s.Inv) (hst : s.Reaches t) : t.Inv := by
  obtain ⟨n, rfl⟩ := hst
  induction n generalizing s with
  | zero => exact h
  | succ n ih => exact ih h.turn

/-! ### Host transactions, commands, resets -/

/-- All that a host transaction can do: what it writes it writes to a core that is not BUSY, and only a write of CMD
touches the control registers. -/
inductive State.TransactResult (s : State) (tx : HostTx) : State → Prop
  | answered (draw : Nat) (r : Response) : s.TransactResult tx { s with draw := draw, resp := r }
  | length (hb : s.busy = false) (v : LenWord) : s.TransactResult tx { s with len := v, resp := .written }
  | stored (hb : s.busy = false) (k : Nat) (l : Lane) (x : F64) (hk : k < Config.nmax) :
      s.TransactResult tx { s with mem := s.mem.writeLane (Memory.offset .src k l) x, resp := .written }
  | accepted (hb : s.busy = false) (w : Word) (hw : writesCmd (.host tx) = true) :
      s.TransactResult tx ((s.accept w).answer .written)

theorem transactResult_writeReg {tx : HostTx} {r : Nat} (hw : writesCmd (.host tx) = (r == 0)) (s : State) (v : Word) :
    s.TransactResult tx ((s.writeReg r v).answer .written) := by
  cases hb : s.busy with
  | true =>
    rw [State.writeReg_of_busy hb]
    exact .answered s.draw _
  | false =>
    obtain rfl | rfl | hr : r = 0 ∨ r = 1 ∨ 2 ≤ r := by omega
    · rw [State.writeReg_cmd hb]
      exact .accepted hb v hw
    · rw [State.writeReg_len hb]
      exact .length hb v
    · rw [State.writeReg_of_two_le hb hr]
      exact .answered s.draw _

theorem transactResult_writeBuf (tx : HostTx) (s : State) (k : Nat) (l : Lane) (x : F64) :
    s.TransactResult tx ((s.writeBuf k l x).answer .written) := by
  cases hb : s.busy with
  | true =>
    rw [State.writeBuf_of_busy hb]
    exact .answered s.draw _
  | false =>
    obtain hk | hk := Nat.lt_or_ge k Config.nmax
    · rw [State.writeBuf_of_lt hb hk]
      exact .stored hb k l x hk
    · rw [s.writeBuf_of_nmax_le hk]
      exact .answered s.draw _

theorem transactResult_read (tx : HostTx) (s : State) (sp : Space) (k : Nat) (r : Response) :
    s.TransactResult tx ((s.noteRead sp k).answer r) := by
  rw [s.noteRead_frame sp k]
  exact .answered _ r

theorem transactResult (tx : HostTx) (s : State) : s.TransactResult tx (s.transact tx) := by
  cases tx with
  | writeReg r v => exact transactResult_writeReg rfl s v
  | readReg r => exact .answered s.draw _
  | writeBuf k l x => exact transactResult_writeBuf _ s k l x
  | readBuf sp k l => exact transactResult_read _ s sp k _
  | busWrite width addr v =>
    rw [State.transact, State.busWrite]
    split
    next => exact .answered s.draw _
    next r hslot => exact transactResult_writeReg (by simp [writesCmd, slotAt, hslot]) s _
    next k l _ => exact transactResult_writeBuf _ s k l v
    next => exact .answered s.draw _
    next => exact .answered s.draw _
  | busRead width addr =>
    rw [State.transact, State.busRead]
    split
    next => exact .answered s.draw _
    next => exact .answered s.draw _
    next sp k l _ => exact transactResult_read _ s sp k _
    next => exact .answered s.draw _

theorem State.Inv.transact {s : State} (h : s.Inv) (tx : HostTx) : (s.transact tx).Inv := by
  have hresult := transactResult tx s
  generalize s.transact tx = t at hresult ⊢
  cases hresult with
  | answered draw r => exact h.withHost s.len draw s.events r
  | length _ v => exact h.withHost v s.draw s.events .written
  | stored _ k l x hk => exact h.withMem (h.memSound.writeLane .src hk l x) s.draw s.dstSeed .written
  | accepted _ w _ => exact (h.accept w).withHost s.len s.draw s.events .written

/-- An issued word, run to its end, ends where its turns end. -/
theorem reaches_issue (w : Word) {s : State} (hb : s.busy = false) :
    ∃ t, issue w s = .next t ∧ (s.accept w).Reaches t ∧ t.busy = false := by
  cases hd : decode w with
  | ok i =>
    obtain rfl := eq_encode_of_decode hd
    rw [issue_of_decode_ok hd]
    exact reaches_exec i hb
  | illegal r => exact ⟨_, issue_illegal hd hb, State.reaches_of_turn (turn_accept_illegal hd s), rfl⟩

theorem State.Inv.issue {s t : State} {w : Word} (h : s.Inv) (ht : issue w s = .next t) : t.Inv := by
  cases hb : s.busy with
  | true =>
    obtain rfl := Host.Outcome.next.inj (ht.symm.trans ((busyCoreIgnoresCommands s hb).2 w))
    exact h
  | false =>
    obtain ⟨u, hu, hreach, -⟩ := reaches_issue w hb
    obtain rfl := Host.Outcome.next.inj (ht.symm.trans hu)
    exact (h.accept w).reaches hreach

theorem afterReset_inv (s : State) : s.afterReset.Inv :=
  let h := resetStateMeetsInvariant
  ⟨h.memSorted, h.memInWindows, h.lanesWhole, h.busyWhenRunning, h.cmdWhenRunning, h.latched, h.errWhenError,
    h.rlenWhenDone, h.tables, h.counters, h.position⟩

theorem State.Inv.happen {s t : State} {ev : Event} (h : s.Inv) (ht : happen ev s = .next t) : t.Inv := by
  cases ev with
  | host tx => exact Host.Outcome.next.inj ht ▸ h.transact tx
  | turn => exact Host.Outcome.next.inj ht ▸ h.turn
  | command w => exact (h.withHost s.len s.draw s.events .written).issue ht
  | reset presented => exact Host.Outcome.next.inj ht ▸ afterReset_inv s

theorem State.Inv.step {s t : State} (h : s.Inv) (ht : step s = .next t) : t.Inv := by
  obtain ⟨-, rfl⟩ | ⟨ev, evs, -, hhappen⟩ := step_cases ht
  · exact h.turn
  · exact (h.withHost s.len s.draw evs s.resp).happen hhappen

/-- Settles O19: a turn by what it can do, a transaction by what it can write, a command by the turns it stands for. -/
theorem everyStepKeepsInvariant : Obligations.EveryStepKeepsInvariant := by
  intro s h
  obtain ⟨t, ht⟩ := step_next s
  exact ⟨t, ht, h.step ht⟩

/-! ### Loop registers -/

theorem registersFollow_of_idle {s : State} (h : s.seq = .idle) : s.registersFollow := by
  rw [State.registersFollow, h]
  trivial

theorem State.registersFollow.turn {s : State} (hinv : s.Inv) (h : s.registersFollow) : s.turn.registersFollow := by
  have hturn := turnResult hinv
  generalize s.turn = t at hturn ⊢
  cases hturn with
  | idle => exact h
  | refused => exact registersFollow_of_idle rfl
  | begun _ i => cases i <;> exact trivial
  | moved _ i w q _ hm => exact hm.follow h
  | completed => exact registersFollow_of_idle rfl

theorem State.registersFollow.transact {s : State} (h : s.registersFollow) (tx : HostTx) :
    (s.transact tx).registersFollow := by
  have hresult := transactResult tx s
  generalize s.transact tx = t at hresult ⊢
  cases hresult with
  | answered => exact h
  | length => exact h
  | stored => exact h
  | accepted => exact trivial

theorem State.registersFollow.issue {s t : State} {w : Word} (hinv : s.Inv) (h : s.registersFollow)
    (ht : issue w s = .next t) : t.registersFollow := by
  cases hb : s.busy with
  | true =>
    obtain rfl := Host.Outcome.next.inj (ht.symm.trans ((busyCoreIgnoresCommands s hb).2 w))
    exact h
  | false =>
    obtain ⟨u, hu, -, hbu⟩ := reaches_issue w hb
    obtain rfl := Host.Outcome.next.inj (ht.symm.trans hu)
    exact registersFollow_of_idle ((hinv.issue ht).seq_of_not_busy hbu)

theorem State.registersFollow.step {s t : State} (hinv : s.Inv) (h : s.registersFollow) (ht : step s = .next t) :
    t.registersFollow := by
  obtain ⟨-, rfl⟩ | ⟨ev, evs, -, hhappen⟩ := step_cases ht
  · exact h.turn hinv
  have hinv' := hinv.withHost s.len s.draw evs s.resp
  have h' : ({ s with events := evs } : State).registersFollow := h
  cases ev with
  | host tx => exact Host.Outcome.next.inj hhappen ▸ h'.transact tx
  | turn => exact Host.Outcome.next.inj hhappen ▸ h'.turn hinv'
  | command w => exact State.registersFollow.issue (hinv'.withHost _ _ _ .written) h' hhappen
  | reset presented => exact Host.Outcome.next.inj hhappen ▸ registersFollow_of_idle rfl

section FinalValues

variable {M F : Type} (e : Env M F) (w : Work M F)

/-- A loop with at least one iteration ends with the last one. -/
theorem forStride_eq_last {W : Type} {stride : Nat} {body : Nat → W → W} {count i : Nat} {w : W} (h : 0 < count) :
    ∃ v, forStride stride body count i w = body (i + (count - 1) * stride) v := by
  obtain ⟨c, rfl⟩ := Nat.exists_eq_add_of_le' h
  exact ⟨_, forStride_last stride body c i w⟩

/-- The last group of the last level leaves G = N; after it SCALE and LEVEL are assigned once more. -/
theorem ladder_regs {m : Nat} (hm : 1 ≤ m) :
    (ladder e (2 ^ m) w).regs.scale = 0 ∧ (ladder e (2 ^ m) w).regs.level = 2 * 2 ^ m ∧
      (ladder e (2 ^ m) w).regs.g = 2 ^ m := by
  have hone : 2 ^ m / 2 ^ m = 1 := Nat.div_self (by positivity)
  rw [ladder, Nat.log2_two_pow]
  obtain ⟨v, hv⟩ := forStride_eq_last (stride := 1) (body := fun t => ladderLevel e (2 ^ m) (2 ^ (t + 1))) (i := 0)
    (w := ladderEnter (2 ^ m) w) (show 0 < m by omega)
  rw [hv, Nat.zero_add, Nat.mul_one, Nat.sub_add_cancel hm, ladderLevel, hone]
  refine ⟨?_, rfl, ?_⟩
  · rw [levelLeave_regs, hone]
  · rw [levelLeave_regs, forStride_last, Nat.zero_mul, Nat.zero_add, ladderGroup]
    exact Nat.zero_add _

theorem setStep_sStep (v : Nat) : (setStep v w).regs.sStep = v := rfl

/-- The groups of a stage leave JUMP as TW.SETUP has set it. -/
theorem stage_jump (dir : Direction) (n st : Nat) : (stage e dir n st w).regs.jump = 2 * st := by
  refine forStride_keeps (P := fun v : Work M F => v.regs.jump = 2 * st) (fun g v hv => ?_) st 0 _ rfl
  exact forStride_keeps (P := fun v : Work M F => v.regs.jump = 2 * st) (body := stagePair e st) (fun p v hv => hv) _ g
    (stageGroupEnter g v) hv

theorem fftCore_regs (dir : Direction) {m : Nat} (hm : 1 ≤ m) :
    (fftCore e dir (2 ^ m) w).regs.sStep = 2 ^ m ∧ (fftCore e dir (2 ^ m) w).regs.jump = 2 ^ m := by
  have hlast : 2 * 2 ^ (m - 1) = 2 ^ m := by rw [← pow_succ', Nat.sub_add_cancel hm]
  rw [fftCore, Nat.log2_two_pow]
  obtain ⟨v, hv⟩ := forStride_eq_last (stride := 1) (body := fun t => stage e dir (2 ^ m) (2 ^ t)) (i := 0)
    (w := setStep 1 w) (show 0 < m by omega)
  rw [hv, Nat.zero_add, Nat.mul_one, stage_jump, stage, setStep_sStep, hlast]
  exact ⟨rfl, rfl⟩

end FinalValues

/-- Settles O20: every move keeps the registers with the position, and nothing else touches them while a command runs;
the last level and the last stage leave the final values. -/
theorem loopRegistersFollowThePseudocode : Obligations.LoopRegistersFollowThePseudocode := by
  refine ⟨trivial, fun s t hinv h ht => h.step hinv ht, fun m srcSeed dstSeed dir w hm => ?_⟩
  obtain ⟨hscale, hlevel, hg⟩ := ladder_regs (bufferEnv coreNum srcSeed dstSeed) w hm
  obtain ⟨hstep, hjump⟩ := fftCore_regs (bufferEnv coreNum srcSeed dstSeed) w dir hm
  exact ⟨hscale, hlevel, hg, hstep, hjump⟩

/-! ### Progress -/

theorem idle_of_rank_eq_zero {q : Seq} (h : q.rank = 0) : q = .idle := by
  cases q with
  | idle => rfl
  | _ => simp [Seq.rank] at h

theorem rank_firstPosition (i : Instr) : (firstPosition (.ok i)).rank < Seq.validate.rank := by
  cases i <;> decide

/-- A turn of a BUSY core ends its command or brings it nearer to the end. -/
theorem turn_progress {s : State} (h : s.Inv) (hb : s.busy = true) :
    s.turn.done = true ∨ (s.turn.busy = true ∧ s.turn.seq.rank < s.seq.rank) := by
  have hseq := h.busy_iff.1 hb
  have hturn := turnResult h
  generalize s.turn = t at hturn ⊢
  cases hturn with
  | idle hidle => exact absurd hidle hseq
  | refused => exact .inl rfl
  | begun hval i => exact .inr ⟨hb, by rw [hval]; exact rank_firstPosition i⟩
  | moved _ i w q _ hm => exact .inr ⟨hb, hm.rank⟩
  | completed => exact .inl rfl

/-- An event that is neither a turn nor a reset leaves a BUSY core at its position. -/
theorem happen_busy {s t : State} {ev : Event} (hb : s.busy = true) (hreset : isReset ev = false) (hturn : ev ≠ .turn)
    (ht : happen ev s = .next t) : t.busy = true ∧ t.seq = s.seq := by
  cases ev with
  | host tx =>
    obtain rfl := Host.Outcome.next.inj ht
    have hresult := transactResult tx s
    generalize s.transact tx = t at hresult ⊢
    cases hresult with
    | answered => exact ⟨hb, rfl⟩
    | length h => simp [h] at hb
    | stored h => simp [h] at hb
    | accepted h => simp [h] at hb
  | turn => exact absurd rfl hturn
  | command w =>
    obtain rfl := Host.Outcome.next.inj (ht.symm.trans ((busyCoreIgnoresCommands (s.answer .written) hb).2 w))
    exact ⟨hb, rfl⟩
  | reset presented => contradiction

theorem run_succ_of_step {n : Nat} {s t : State} (h : step s = .next t) :
    Host.Core.run core (n + 1) s = Host.Core.run core n t := by
  have hcore : core.step s = .next t := h
  simp only [Host.Core.run, hcore]

/-- With as many turns to come as its rank, a BUSY core comes to its end on the way. -/
theorem exists_done {evs : List Event} : ∀ {s : State}, s.events = evs → s.Inv → s.busy = true →
    (∀ ev ∈ evs, isReset ev = false) → s.seq.rank ≤ evs.count .turn →
    ∃ n t, n ≤ evs.length ∧ Host.Core.run core n s = .next t ∧ t.done = true := by
  induction evs with
  | nil =>
    intro s _ hinv hb _ hrank
    exact absurd (idle_of_rank_eq_zero (Nat.le_zero.1 hrank)) (hinv.busy_iff.1 hb)
  | cons ev evs ih =>
    intro s hev hinv hb hreset hrank
    obtain ⟨t, ht⟩ := step_next s
    have hhappen := (step_cons hev).symm.trans ht
    have hevents : t.events = evs := happen_events hhappen
    have hgo (hbt : t.busy = true) (hr : t.seq.rank ≤ evs.count .turn) :
        ∃ n u, n ≤ (ev :: evs).length ∧ Host.Core.run core n s = .next u ∧ u.done = true := by
      obtain ⟨n, u, hn, hrun, hdone⟩ := ih hevents (hinv.step ht) hbt
        (fun ev' hev' => hreset ev' (List.mem_cons_of_mem _ hev')) hr
      exact ⟨n + 1, u, Nat.succ_le_succ hn, (run_succ_of_step ht).trans hrun, hdone⟩
    by_cases hturn : ev = .turn
    · subst hturn
      rw [List.count_cons_self] at hrank
      obtain rfl : _ = t := Host.Outcome.next.inj hhappen
      have hinv' := hinv.withHost s.len s.draw evs s.resp
      obtain hdone | ⟨hbt, hless⟩ := turn_progress hinv' hb
      · exact ⟨1, _, by simp, run_succ_of_step ht, hdone⟩
      · have hless : _ < s.seq.rank := hless
        exact hgo hbt (by omega)
    · obtain ⟨hbt, hseq⟩ :=
        happen_busy (s := { s with events := evs }) hb (hreset ev List.mem_cons_self) hturn hhappen
      rw [List.count_cons_of_ne hturn] at hrank
      exact hgo hbt (by rw [hseq]; exact hrank)

/-- Settles O24: the rank of the position is a bound: every turn lowers it and no other event moves a BUSY core. -/
theorem busyCoreFinishes : Obligations.BusyCoreFinishes := fun s hinv hb =>
  ⟨s.seq.rank, fun evs hreset hbound =>
    exists_done (s := { s with events := evs }) rfl (hinv.withHost s.len s.draw evs s.resp) hb hreset hbound⟩

end Sys2Proof.Machine
end

section
/-! PROOFS. STATUS as a word, and what a core that is not BUSY keeps and takes from its host (10_state R23, R39, R57;
20_memory R59; 30_encoding R77, R78). -/

namespace Sys2Proof.Machine

/-! ### STATUS as a word (10_state R23) -/

theorem Status.word_toNat (st : Status) :
    st.word.toNat = st.dirl.toNat * 4096 + st.opl.toNat * 256 + st.err.code.toNat * 16 + st.state.code.toNat := by
  have hopl := st.opl.isLt
  have herr := st.err.code.isLt
  have hstate := st.state.code.isLt
  have hzero : ∀ w, (0 : BitVec w).toNat = 0 := fun _ => rfl
  simp only [Status.word, BitVec.toNat_append, hzero]
  rw [← Nat.shiftLeft_add_eq_or_of_lt (by omega), ← Nat.shiftLeft_add_eq_or_of_lt (by omega),
    ← Nat.shiftLeft_add_eq_or_of_lt (by omega), ← Nat.shiftLeft_add_eq_or_of_lt (by omega),
    ← Nat.shiftLeft_add_eq_or_of_lt (by omega), ← Nat.shiftLeft_add_eq_or_of_lt (by omega)]
  simp only [Nat.shiftLeft_eq]
  omega

/-- A field of STATUS by the number it holds. -/
theorem Status.field_eq (st : Status) {start width : Nat} {x : BitVec width}
    (h : (st.dirl.toNat * 4096 + st.opl.toNat * 256 + st.err.code.toNat * 16 + st.state.code.toNat) / 2 ^ start %
      2 ^ width = x.toNat) : st.word.extractLsb' start width = x :=
  BitVec.eq_of_toNat_eq (by rw [BitVec.extractLsb'_toNat, Nat.shiftRight_eq_div_pow, st.word_toNat, h])

section Fields

variable (st : Status)

theorem Status.reserved_low : st.word.extractLsb' 2 2 = 0 := by
  have hstate := st.state.code.isLt
  exact st.field_eq (x := 0) (Eq.trans (by omega) BitVec.toNat_zero.symm)

theorem Status.reserved_middle : st.word.extractLsb' 7 1 = 0 := by
  have herr := st.err.code.isLt
  have hstate := st.state.code.isLt
  exact st.field_eq (x := 0) (Eq.trans (by omega) BitVec.toNat_zero.symm)

theorem Status.reserved_high : st.word.extractLsb' 13 19 = 0 := by
  have hdirl := st.dirl.isLt
  have hopl := st.opl.isLt
  have herr := st.err.code.isLt
  have hstate := st.state.code.isLt
  exact st.field_eq (x := 0) (Eq.trans (by omega) BitVec.toNat_zero.symm)

theorem Status.err_bits_word : st.word.extractLsb' 4 3 = st.err.code := by
  have herr := st.err.code.isLt
  have hstate := st.state.code.isLt
  exact st.field_eq (by omega)

theorem Status.opl_bits_word : st.word.extractLsb' 8 4 = st.opl := by
  have hopl := st.opl.isLt
  have herr := st.err.code.isLt
  have hstate := st.state.code.isLt
  exact st.field_eq (by omega)

theorem Status.dirl_bits_word : st.word.extractLsb' 12 1 = st.dirl := by
  have hdirl := st.dirl.isLt
  have hopl := st.opl.isLt
  have herr := st.err.code.isLt
  have hstate := st.state.code.isLt
  exact st.field_eq (by omega)

end Fields

theorem CoreState.code_eq_one_iff (c : CoreState) : c.code = 1 ↔ c = .busy := by cases c <;> decide

theorem CoreState.code_done_iff (c : CoreState) : c.code = 2 ∨ c.code = 3 ↔ c = .done ∨ c = .error := by
  cases c <;> decide

theorem State.done_iff (s : State) : s.done = true ↔ s.status.state = .done ∨ s.status.state = .error := by
  simp [State.done]

/-! ### What a core that is not BUSY keeps (20_memory R59) -/

/-- STATUS, RLEN, every lane of DST and which of them hold a value are the same in two states. -/
structure State.SameResult (s t : State) : Prop where
  status : t.status = s.status
  rlen : t.rlen = s.rlen
  dst : ∀ k l, k < Config.nmax → t.dst k l = s.dst k l ∧ t.specified k l = s.specified k l

theorem State.SameResult.refl (s : State) : s.SameResult s := ⟨rfl, rfl, fun _ _ _ => ⟨rfl, rfl⟩⟩

theorem State.SameResult.trans {s t u : State} (h : s.SameResult t) (h' : t.SameResult u) : s.SameResult u :=
  ⟨h'.status.trans h.status, h'.rlen.trans h.rlen,
    fun k l hk => ⟨(h'.dst k l hk).1.trans (h.dst k l hk).1, (h'.dst k l hk).2.trans (h.dst k l hk).2⟩⟩

theorem State.SameResult.not_busy {s t : State} (h : s.SameResult t) (hb : s.busy = false) : t.busy = false := by
  rw [State.busy, h.status]
  exact hb

/-- A store to SRC leaves the results. -/
theorem sameResult_src_store (s : State) {k : Nat} (hk : k < Config.nmax) (l : Lane) (x : F64) (r : Response) :
    s.SameResult { s with mem := s.mem.writeLane (Memory.offset .src k l) x, resp := r } := by
  refine ⟨rfl, rfl, fun k' l' hk' => ⟨?_, ?_⟩⟩
  · exact laneValue_writeLane_other _ _ x hk hk' (by simp)
  · exact congrArg Option.isSome (Memory.readLane_writeLane_other s.mem x hk hk' (by simp))

theorem turn_eq_self {s : State} (h : s.seq = .idle) : s.turn = s := by rw [State.turn, h]

/-- An event that issues no word and resets nothing leaves the results of a core that is not BUSY. -/
theorem happen_sameResult {ev : Event} {s t : State} (hinv : s.Inv) (hb : s.busy = false) (hreset : isReset ev = false)
    (hcmd : writesCmd ev = false) (ht : happen ev s = .next t) : s.SameResult t := by
  cases ev with
  | host tx =>
    obtain rfl := Host.Outcome.next.inj ht
    have hresult := transactResult tx s
    generalize s.transact tx = t at hresult ⊢
    cases hresult with
    | answered => exact ⟨rfl, rfl, fun _ _ _ => ⟨rfl, rfl⟩⟩
    | length => exact ⟨rfl, rfl, fun _ _ _ => ⟨rfl, rfl⟩⟩
    | stored _ k l x hk => exact sameResult_src_store s hk l x _
    | accepted _ w hw => simp [hw] at hcmd
  | turn =>
    obtain rfl := Host.Outcome.next.inj ht
    rw [turn_eq_self (hinv.seq_of_not_busy hb)]
    exact .refl s
  | command w => contradiction
  | reset presented => contradiction

/-- Settles O10: each field is a lemma on the word; outside BUSY the events that remain leave the results. -/
theorem statusWordFields : Obligations.StatusWordFields := by
  intro s hinv v
  have hstate : v.extractLsb' 0 2 = s.status.state.code := s.status.state_bits_word
  have herr : v.extractLsb' 4 3 = s.status.err.code := s.status.err_bits_word
  refine ⟨?state, s.status.reserved_low, s.status.reserved_middle, s.status.reserved_high, ?err,
    s.status.opl_bits_word, s.status.dirl_bits_word, fun hne => ?noErr, ?busy, ?done, fun ev t hb hcmd hreset ht =>
      (happen_sameResult hinv hb hreset hcmd ht).status, Status.reset_word⟩
  case state =>
    rw [hstate]
    cases s.status.state <;> rfl
  case err =>
    rw [herr]
    cases s.status.err <;> rfl
  case noErr =>
    rw [herr, hinv.errWhenError.1 hne]
    rfl
  case busy => rw [hstate, CoreState.code_eq_one_iff, s.busy_iff]
  case done => rw [hstate, CoreState.code_done_iff, s.done_iff]

/-- Settles O15: a core that is not BUSY takes no turn, and the writes that remain are of LEN or SRC. -/
theorem resultsStayUntilTheNextCommand : Obligations.ResultsStayUntilTheNextCommand := by
  intro n s t hinv hb hrun hevents
  have hkept := run_keeps (Q := fun ev => isReset ev = false ∧ writesCmd ev = false)
    (R := fun s t => s.Inv → s.busy = false → t.Inv ∧ s.SameResult t)
    (fun s hinv _ => ⟨hinv, .refl s⟩)
    (fun s t u hst htu hinv hb => by
      obtain ⟨hinvt, hsame⟩ := hst hinv hb
      obtain ⟨hinvu, hsame'⟩ := htu hinvt (hsame.not_busy hb)
      exact ⟨hinvu, hsame.trans hsame'⟩)
    (fun s hinv hb => ⟨hinv.turn, by rw [turn_eq_self (hinv.seq_of_not_busy hb)]; exact .refl s⟩)
    (fun s ev evs t hev ht hinv hb => by
      have hinv' := hinv.withHost s.len s.draw evs s.resp
      have hsame := happen_sameResult hinv' hb hev.1 hev.2 ht
      exact ⟨hinv'.happen ht, hsame.status, hsame.rlen, hsame.dst⟩)
    hevents hrun
  obtain ⟨-, hstatus, hrlen, hdst⟩ := hkept hinv hb
  exact ⟨hstatus, hrlen, hdst⟩

/-! ### The host's writes before a command (30_encoding R77, R78) -/

/-- The events of `wsrc k, re, im` for the pairs x at the indices from j on. -/
def pairEvents (j : Nat) : List (F64 × F64) → List Event
  | [] => []
  | p :: x => .host (.writeBuf j .re p.1) :: .host (.writeBuf j .im p.2) :: pairEvents (j + 1) x

theorem writePairs_events (x : List (F64 × F64)) : (writePairs x).flatMap HostStmt.events = pairEvents 0 x := by
  have h : ∀ j, ((x.zipIdx j).map fun e => HostStmt.wsrc e.2 e.1.1 e.1.2).flatMap HostStmt.events = pairEvents j x := by
    induction x with
    | nil => exact fun _ => rfl
    | cons p x ih =>
      intro j
      rw [List.zipIdx_cons, List.map_cons, List.flatMap_cons, ih (j + 1)]
      rfl
  exact h 0

/-- A host's store to SRC, as one step. -/
theorem step_writeBuf {s : State} {k : Nat} {l : Lane} {x : F64} {evs : List Event} (hb : s.busy = false)
    (hk : k < Config.nmax) (hev : s.events = .host (.writeBuf k l x) :: evs) :
    step s = .next { s with mem := s.mem.writeLane (Memory.offset .src k l) x, events := evs, resp := .written } := by
  rw [step_cons hev]
  exact congrArg (fun t => Host.Outcome.next (State.answer .written t))
    (State.writeBuf_of_lt (s := { s with events := evs }) hb hk l x)

/-- A host's write of LEN, as one step. -/
theorem step_writeLen {s : State} {v : Word} {evs : List Event} (hb : s.busy = false)
    (hev : s.events = .host (.writeReg 1 v) :: evs) :
    step s = .next { s with len := v, events := evs, resp := .written } := by
  rw [step_cons hev]
  exact congrArg (fun t => Host.Outcome.next (State.answer .written t))
    (State.writeReg_len (s := { s with events := evs }) hb v)

/-- What the stores of the pairs x at the indices from j on leave. -/
structure State.PairsStored (s t : State) (j : Nat) (x : List (F64 × F64)) : Prop where
  status : t.status = s.status
  pairs : ∀ k p, x[k]? = some p →
    t.src (j + k) .re = p.1 ∧ t.src (j + k) .im = p.2 ∧ t.written (j + k) .re = true ∧ t.written (j + k) .im = true
  dst : ∀ k l, k < Config.nmax → t.dst k l = s.dst k l
  src : ∀ k l, k < Config.nmax → k < j ∨ j + x.length ≤ k → t.src k l = s.src k l ∧ t.written k l = s.written k l

theorem State.PairsStored.cons {s t u : State} {j : Nat} {p : F64 × F64} {x : List (F64 × F64)}
    (hj : j < Config.nmax) (h : s.PairsStored t j [p])
    (h' : t.PairsStored u (j + 1) x) : s.PairsStored u j (p :: x) where
  status := h'.status.trans h.status
  pairs
    | 0, q, hq => by
      obtain ⟨hre, him, hwre, hwim⟩ := h.pairs 0 q (by simpa using hq)
      have hkept := fun l => h'.src j l hj (.inl (Nat.lt_succ_self j))
      exact ⟨(hkept .re).1.trans hre, (hkept .im).1.trans him, (hkept .re).2.trans hwre, (hkept .im).2.trans hwim⟩
    | k + 1, q, hq => by
      rw [Nat.add_comm k, ← Nat.add_assoc]
      exact h'.pairs k q (by simpa using hq)
  dst k l hk := (h'.dst k l hk).trans (h.dst k l hk)
  src k l hk hout := by
    rw [List.length_cons] at hout
    obtain ⟨hv, hw⟩ := h.src k l hk (by simp only [List.length_singleton]; omega)
    obtain ⟨hv', hw'⟩ := h'.src k l hk (by omega)
    exact ⟨hv'.trans hv, hw'.trans hw⟩

/-- A pair's two stores. -/
theorem step_step_writeBuf {s : State} {j : Nat} {p : F64 × F64} {evs : List Event} (hb : s.busy = false)
    (hj : j < Config.nmax) (hev : s.events = .host (.writeBuf j .re p.1) :: .host (.writeBuf j .im p.2) :: evs) :
    ∃ s' t, step s = .next s' ∧ step s' = .next t ∧
      t.events = evs ∧ s.PairsStored t j [p] := by
  obtain ⟨hre, hwre, hsrc, hdst⟩ := s.lanes_after_src_store hj .re p.1
  set s' : State := { s with mem := s.mem.writeLane (Memory.offset .src j .re) p.1,
                             events := .host (.writeBuf j .im p.2) :: evs, resp := .written } with hs'
  obtain ⟨him, hwim, hsrc', hdst'⟩ := s'.lanes_after_src_store hj .im p.2
  refine ⟨s', _, step_writeBuf hb hj hev, step_writeBuf hb hj rfl, rfl, rfl, ?_,
    fun k l hk => (hdst' k l hk).trans (hdst k l hk), fun k l hk hout => ?_⟩
  · intro k q hq
    obtain ⟨rfl, rfl⟩ : k = 0 ∧ p = q := by
      cases k with
      | zero => exact ⟨rfl, by simpa using hq⟩
      | succ k => simp at hq
    obtain ⟨hkept, hkeptw⟩ := hsrc' j .re hj (by simp)
    exact ⟨hkept.trans hre, him, hkeptw.trans hwre, hwim⟩
  · rw [List.length_singleton] at hout
    obtain ⟨hv, hw⟩ := hsrc k l hk (by omega)
    obtain ⟨hv', hw'⟩ := hsrc' k l hk (by omega)
    exact ⟨hv'.trans hv, hw'.trans hw⟩

theorem run_pairEvents {x : List (F64 × F64)} : ∀ {j : Nat} {s : State} {rest : List Event}, s.busy = false →
    j + x.length ≤ Config.nmax → s.events = pairEvents j x ++ rest →
    ∃ t, (∀ n, Host.Core.run core (2 * x.length + n) s = Host.Core.run core n t) ∧ t.events = rest ∧
      s.PairsStored t j x := by
  induction x with
  | nil => exact fun _ _ hev => ⟨_, fun n => by simp, hev, rfl, by simp, fun _ _ _ => rfl, fun _ _ _ _ => ⟨rfl, rfl⟩⟩
  | cons p x ih =>
    intro j s rest hb hlen hev
    rw [List.length_cons] at hlen
    have hj : j < Config.nmax := by omega
    obtain ⟨s', s'', hstep, hstep', hev', hpair⟩ := step_step_writeBuf hb hj hev
    have hb' : s''.busy = false := by rw [State.busy, hpair.status]; exact hb
    obtain ⟨t, hrun, hrest, hstored⟩ := ih hb' (by omega) hev'
    refine ⟨t, fun n => ?_, hrest, hpair.cons hj hstored⟩
    have hcount : 2 * (p :: x).length + n = 2 * x.length + n + 1 + 1 := by rw [List.length_cons]; omega
    rw [hcount, run_succ_of_step hstep, run_succ_of_step hstep', hrun]

/-- Settles O16: pair by pair, then the write of LEN. -/
theorem hostWritesReachTheCore : Obligations.HostWritesReachTheCore := by
  intro s x rest hb hlen hev
  have hpairs : s.events = pairEvents 0 x ++ .host (.writeReg 1 (BitVec.ofNat 32 x.length)) :: rest := by
    rw [hev, List.flatMap_append, writePairs_events]
    simp [HostStmt.events]
  obtain ⟨t, hrun, hrest, hstored⟩ := run_pairEvents hb (by omega) hpairs
  have hb' : t.busy = false := by unfold State.busy; rw [hstored.status]; exact hb
  have hlen32 : x.length < 2 ^ 32 := lt_of_le_of_lt hlen (by decide)
  refine ⟨_, (hrun 1).trans (run_succ_of_step (step_writeLen hb' hrest)), rfl, ?_, hstored.status, hb', ?_,
    fun k l hk => ⟨hstored.dst k l hk, fun hout => (hstored.src k l hk (.inr (by omega))).1⟩⟩
  · rw [BitVec.toNat_ofNat, Nat.mod_eq_of_lt hlen32]
  · intro k p hp
    have hp' := hstored.pairs k p hp
    rw [Nat.zero_add] at hp'
    exact hp'

end Sys2Proof.Machine
end

section
/-! PROOFS. What the commands change (42_fft, 43_hartley and 44_spectral, section 2): each procedure stores below N
alone, what each leaves of the units' registers, and the frame of a completed command. -/

namespace Sys2Proof.Machine

/-! ### The lengths on which a transform completes -/

theorem validateLength_two_pow (i : Instr) {m : Nat} (hm : 1 ≤ m) (hmax : m ≤ Config.log2Nmax) :
    validateLength i (2 ^ m) = none := by
  have htwo : 2 ≤ 2 ^ m := Nat.pow_le_pow_right two_pos hm
  have heven : 2 ^ m % 2 ≠ 1 := by rw [Nat.pow_mod]; simp [Nat.one_le_iff_ne_zero.1 hm]
  have hpow : ∃ t, 2 ^ m = 2 ^ t := ⟨m, rfl⟩
  refine validateLength_of_le_nmax ?_ (Nat.pow_le_pow_right two_pos hmax)
  cases i with
  | fftFwd => rw [lengthInvalid_fftFwd_iff]; exact not_or.2 ⟨by omega, not_not.2 hpow⟩
  | fftInv => rw [lengthInvalid_fftInv_iff]; exact not_or.2 ⟨by omega, not_not.2 hpow⟩
  | fht => rw [lengthInvalid_fht_iff]; exact not_or.2 ⟨heven, not_not.2 hpow⟩
  | mag => exact Bool.false_ne_true
  | phase => exact Bool.false_ne_true

/-! ### The elements the loops visit -/

/-- The second element of pair t of a group. -/
theorem stage_pair_lt {n st g t : Nat} (hg : g < st) (ht : t < n / (2 * st)) : g + t * (2 * st) + st < n := by
  have hle := (Nat.mul_le_mul_right (2 * st) ht).trans (Nat.div_mul_le_self n (2 * st))
  rw [Nat.succ_mul] at hle
  omega

/-- The end of group t of a level. -/
theorem ladder_group_le {n level t : Nat} (ht : t < n / level) : t * level + level ≤ n := by
  have hle := (Nat.mul_le_mul_right level ht).trans (Nat.div_mul_le_self n level)
  rwa [Nat.succ_mul] at hle

section Procedures

variable {M F : Type} (e : Env M F) (w : Work M F) (n : Nat)

/-! ### The procedures store below N -/

theorem storesBelow_copyIn (real : Bool) : e.StoresBelow n w.mem (copyIn e real n w).mem :=
  Env.storesBelow_forStride (fun _ v ht => storesBelow_copyElem e v real (by omega)) w

theorem storesBelow_permute (m : Nat) : e.StoresBelow (2 ^ m) w.mem (permute e (2 ^ m) w).mem := by
  rw [permute, Nat.log2_two_pow]
  exact Env.storesBelow_forStride (fun _ v ht => storesBelow_revVisit e v (by omega) (rev_lt _ _)) w

theorem storesBelow_stageGroup {st g : Nat} (hg : g < st) : e.StoresBelow n w.mem (stageGroup e n st g w).mem :=
  Env.storesBelow_forStride (fun _ v ht => storesBelow_stagePair e v (stage_pair_lt hg ht)) (stageGroupEnter g w)

theorem storesBelow_stage (dir : Direction) (st : Nat) : e.StoresBelow n w.mem (stage e dir n st w).mem :=
  Env.storesBelow_forStride (fun _ v ht => storesBelow_stageGroup e v n (by omega))
    (twInit e.num (twSetup e.num dir st w))

theorem storesBelow_fftCore (dir : Direction) : e.StoresBelow n w.mem (fftCore e dir n w).mem :=
  Env.storesBelow_forStride (body := fun t => stage e dir n (2 ^ t)) (fun _ v _ => storesBelow_stage e v n dir _)
    (setStep 1 w)

theorem storesBelow_scaleN : e.StoresBelow n w.mem (scaleN e n w).mem :=
  Env.storesBelow_forStride (fun _ v ht => storesBelow_scaleElem e v n (by omega)) w

theorem storesReal_ladderGroup {level g : Nat} (hg : g + level ≤ n) :
    e.StoresReal n w.mem (ladderGroup e n level g w).mem :=
  (Env.storesReal_forStride (stride := 1) (body := fun i => ladderRot e n level g i (level / 2 - i)) (i := 1)
    (count := (level / 2 - 1) / 2) (fun _ v ht => storesReal_ladderRot e v n (by omega) (by omega))
    (ladderGroupEnter level w)).trans
    (Env.storesReal_forStride (stride := 1) (body := ladderAddSub e level g) (i := 0) (count := level / 2)
      (fun _ v ht => storesReal_ladderAddSub e v (by omega)) _)

theorem storesReal_ladderLevel (level : Nat) : e.StoresReal n w.mem (ladderLevel e n level w).mem :=
  Env.storesReal_forStride
    (fun _ v ht => storesReal_ladderGroup e v n (by rw [Nat.zero_add]; exact ladder_group_le ht)) (levelEnter w)

theorem storesReal_ladder : e.StoresReal n w.mem (ladder e n w).mem :=
  Env.storesReal_forStride (body := fun t => ladderLevel e n (2 ^ (t + 1)))
    (fun _ v _ => storesReal_ladderLevel e v n _) (ladderEnter n w)

theorem storesReal_hartleyNorm : e.StoresReal n w.mem (hartleyNorm e n w).mem :=
  Env.storesReal_forStride (fun _ v ht => storesReal_normElem e v (by omega)) (normRoot e.num n w)

/-- After the copy the Hartley procedure stores to real lanes alone. -/
theorem storesReal_hartley_tail :
    e.StoresReal n w.mem (hartleyNorm e n (ladder e n (hartleyTable e.num n w))).mem := by
  have hladder := storesReal_ladder e (hartleyTable e.num n w) n
  rw [hartleyTable_mem] at hladder
  exact hladder.trans (storesReal_hartleyNorm e _ n)

theorem storesBelow_elementwise (f : Nat → F → F → F) (cost : Nat) :
    e.StoresBelow n w.mem (forStride 1 (elementwiseElem e f cost) n 0 w).mem :=
  Env.storesBelow_forStride (fun _ v ht => storesBelow_elementwiseElem e v f cost (by omega)) w

end Procedures

theorem storesBelow_procedureOf {i : Instr} {n : Nat} (hv : validateLength i n = none) (e : Env Memory F64)
    (w : Work Memory F64) : e.StoresBelow n w.mem (procedureOf i e n w).mem := by
  have hcopied (hi : i.isTransform = true) (real : Bool) :
      e.StoresBelow n w.mem (permute e n (copyIn e real n w)).mem := by
    obtain ⟨m, -, -, rfl⟩ := exists_pow_of_validateLength hi hv
    exact (storesBelow_copyIn e w _ real).trans (storesBelow_permute e _ m)
  cases i with
  | fftFwd => exact (hcopied rfl false).trans (storesBelow_fftCore e _ n .forward)
  | fftInv => exact ((hcopied rfl false).trans (storesBelow_fftCore e _ n .inverse)).trans (storesBelow_scaleN e _ n)
  | fht => exact (hcopied rfl true).trans (storesReal_hartley_tail e _ n).storesBelow
  | mag => exact storesBelow_elementwise e w n (magE e.num) 4
  | phase => exact storesBelow_elementwise e w n (fun _ => phaseE e.num) 0

/-! ### Which lanes of DST hold a value -/

section Listed

variable {num : Num F64} {srcSeed dstSeed n : Nat}

/-- Whether a lane of DST holds a value in a memory. -/
def Memory.listed (m : Memory) (k : Nat) (l : Lane) : Bool := (m.readLane (Memory.offset .dst k l)).isSome

theorem Memory.listed_put (m : Memory) {k k' : Nat} (l l' : Lane) (x : F64) (hk : k < Config.nmax)
    (hk' : k' < Config.nmax) :
    Memory.listed ((bufferEnv num srcSeed dstSeed).put m k l x) k' l' =
      (decide (k' = k ∧ l' = l) || m.listed k' l') := by
  by_cases h : k' = k ∧ l' = l
  · obtain ⟨rfl, rfl⟩ := h
    simp [Memory.listed, bufferEnv]
  · have hother : ¬(Space.dst = .dst ∧ k' = k ∧ l' = l) := fun h' => h h'.2
    rw [decide_eq_false h, Bool.false_or]
    exact congrArg Option.isSome (Memory.readLane_writeLane_other m x hk hk' hother)

theorem Memory.listed_dropDst (m : Memory) {k : Nat} (hk : k < Config.nmax) (l : Lane) :
    m.dropDst.listed k l = false := by
  have hin := Memory.offset_inWindow .dst l hk (j := 0) (by decide)
  have hbyte : m.dropDst.readByte (Memory.offset .dst k l) = none :=
    (Memory.readByte_dropDst m _).trans (if_pos hin)
  simp only [Memory.listed, Memory.readLane, Memory.readBytes, hbyte]
  rfl

/-- Stores below n list no other element, and unlist none. -/
theorem Env.StoresBelow.listed (hn : n ≤ Config.nmax) {m m' : Memory}
    (h : (bufferEnv num srcSeed dstSeed).StoresBelow n m m') {k : Nat} (hk : k < Config.nmax) (l : Lane) :
    (m.listed k l = true → m'.listed k l = true) ∧ (n ≤ k → m'.listed k l = m.listed k l) := by
  induction h with
  | refl => exact ⟨id, fun _ => rfl⟩
  | tail _ hstore ih =>
    obtain ⟨k', l', x, hk', rfl⟩ := hstore
    rw [Memory.listed_put _ _ _ _ (hk'.trans_le hn) hk]
    refine ⟨fun hm => by rw [ih.1 hm, Bool.or_true], fun hout => ?_⟩
    rw [decide_eq_false (by omega), Bool.false_or, ih.2 hout]

/-- A loop over the elements that writes both lanes of each leaves them all listed. -/
theorem listed_forStride_put {body : Nat → Work Memory F64 → Work Memory F64} (hn : n ≤ Config.nmax)
    (hbody : ∀ k v, ∃ re im, (body k v).mem = (v.put (bufferEnv num srcSeed dstSeed) k re im).mem)
    (w : Work Memory F64) {k : Nat} (hk : k < n) (l : Lane) : (forStride 1 body n 0 w).mem.listed k l = true := by
  refine forStride_induction (P := fun t (v : Work Memory F64) => ∀ k l, k < t → v.mem.listed k l = true) n
    (fun _ _ h => absurd h (Nat.not_lt_zero _)) (fun t v ht ih k l hk => ?_) k l hk
  obtain ⟨re, im, hmem⟩ := hbody (0 + t * 1) v
  rw [hmem, Work.put_mem, Memory.listed_put _ _ _ _ (by omega) (by omega),
    Memory.listed_put _ _ _ _ (by omega) (by omega)]
  rcases Nat.lt_succ_iff_lt_or_eq.1 hk with hlt | rfl
  · rw [ih k l hlt, Bool.or_true, Bool.or_true]
  · cases l <;> simp

theorem elementwiseElem_mem {M F : Type} (e : Env M F) (f : Nat → F → F → F) (cost k : Nat) (w : Work M F) :
    (elementwiseElem e f cost k w).mem =
      (w.put e k (f w.draw (e.src w.mem k .re) (e.src w.mem k .im)) e.num.zero).mem := rfl

/-- A completed procedure has written all elements below n. -/
theorem listed_procedureOf {i : Instr} (hv : validateLength i n = none) (w : Work Memory F64) {k : Nat} (hk : k < n)
    (l : Lane) : (procedureOf i (bufferEnv num srcSeed dstSeed) n w).mem.listed k l = true := by
  have hn : n ≤ Config.nmax := Memory.nmax_eq ▸ le_of_validateLength hv
  have hcopied (hi : i.isTransform = true) (real : Bool) :
      (permute (bufferEnv num srcSeed dstSeed) n (copyIn (bufferEnv num srcSeed dstSeed) real n w)).mem.listed k l =
        true := by
    obtain ⟨m, -, -, rfl⟩ := exists_pow_of_validateLength hi hv
    exact ((storesBelow_permute _ _ m).listed hn (hk.trans_le hn) l).1
      (listed_forStride_put (body := copyElem (bufferEnv num srcSeed dstSeed) real) hn
        (fun k v => ⟨_, _, copyElem_mem _ real k v⟩) w hk l)
  cases i with
  | fftFwd => exact ((storesBelow_fftCore _ _ n _).listed hn (hk.trans_le hn) l).1 (hcopied rfl false)
  | fftInv =>
    exact (((storesBelow_fftCore _ _ n _).trans (storesBelow_scaleN _ _ n)).listed hn (hk.trans_le hn) l).1
      (hcopied rfl false)
  | fht => exact ((storesReal_hartley_tail _ _ n).storesBelow.listed hn (hk.trans_le hn) l).1 (hcopied rfl true)
  | mag => exact listed_forStride_put hn (fun k v => ⟨_, _, elementwiseElem_mem _ _ 4 k v⟩) w hk l
  | phase => exact listed_forStride_put hn (fun k v => ⟨_, _, elementwiseElem_mem _ _ 0 k v⟩) w hk l

end Listed

/-! ### The frame of a completed command -/

theorem Env.StoresBelow.sameOutsideDst {num : Num F64} {srcSeed dstSeed n : Nat} (hn : n ≤ Config.nmax)
    {m m' : Memory} (h : (bufferEnv num srcSeed dstSeed).StoresBelow n m m') : m.sameOutsideDst m' :=
  h.keeps (fun m'' _ l x hk hm a ha =>
    (readByte_put_outside_dst num srcSeed dstSeed m'' l x (hk.trans_le hn) ha).trans (hm a ha)) (.refl m)

theorem Memory.sameOutsideDst_dropDst (m : Memory) : m.sameOutsideDst m.dropDst := fun a ha => by
  rw [Memory.readByte_dropDst, ha]
  rfl

/-- The working data on which a completed command's procedure has run. -/
def State.startWork (s : State) : Work Memory F64 := ⟨s.mem.dropDst, s.regs, s.draw + 1⟩

/-- The environment in which a completed command's procedure has run. -/
def State.startEnv (s : State) : Env Memory F64 := bufferEnv coreNum s.srcSeed (s.draw + 1)

theorem completedState_regs (i : Instr) (s : State) :
    (completedState i s).regs = (procedureOf i s.startEnv s.len.toNat s.startWork).regs := rfl

theorem completedState_dst (i : Instr) (s : State) (k : Nat) (l : Lane) :
    (completedState i s).dst k l = s.startEnv.dst (procedureOf i s.startEnv s.len.toNat s.startWork).mem k l := rfl

theorem startEnv_src (s : State) {k : Nat} (hk : k < Config.nmax) (l : Lane) :
    s.startEnv.src s.startWork.mem k l = s.src k l :=
  (Memory.sameOutsideDst_dropDst s.mem).src_eq s.srcSeed hk l

theorem doneFrame_completedState (i : Instr) (s : State) : s.doneFrame i (completedState i s) where
  status := congrArg₂ (Status.mk .done .none) (encode_op i) (encode_dir i)
  rlen := rfl
  len := rfl
  seq := rfl
  opAct := encode_op i
  dAct := congrArg directionOf (encode_dir i)
  nAct := rfl
  srcSeed := rfl
  events := rfl
  resp := rfl

/-- What every completed command leaves, whichever it is. -/
theorem completedState_frame {i : Instr} {s : State} (hb : s.busy = false) (hv : validateLength i s.len.toNat = none) :
    exec i s = .next (completedState i s) ∧ s.doneFrame i (completedState i s) ∧
      s.mem.sameOutsideDst (completedState i s).mem ∧ (completedState i s).resultLength s.len.toNat ∧
      ∀ k l, k < Config.nmax → (completedState i s).src k l = s.src k l := by
  have hn : s.len.toNat ≤ Config.nmax := Memory.nmax_eq ▸ le_of_validateLength hv
  have hstores := storesBelow_procedureOf hv s.startEnv s.startWork
  have hsame := (Memory.sameOutsideDst_dropDst s.mem).trans (hstores.sameOutsideDst hn)
  refine ⟨exec_completed hb hv, doneFrame_completedState i s, hsame, fun k l hk => ⟨fun hspec => ?_, fun hlt => ?_⟩,
    fun k l hk => hsame.src_eq s.srcSeed hk l⟩
  · by_contra hout
    have hlisted := (hstores.listed hn hk l).2 (Nat.le_of_not_lt hout)
    have hdropped := Memory.listed_dropDst s.mem hk l
    exact Bool.false_ne_true (hdropped.symm.trans (hlisted.symm.trans hspec))
  · exact listed_procedureOf hv s.startWork hlt l

/-! ### What the procedures leave of the registers -/

section Registers

variable {M F : Type}

/-- The registers that FFT.FWD and FFT.INV do not touch. -/
structure Regs.FftFrame (r r' : Regs F) : Prop where
  htC : r'.htC = r.htC
  htS : r'.htS = r.htS
  level : r'.level = r.level
  scale : r'.scale = r.scale
  rootN : r'.rootN = r.rootN

/-- The registers that FHT does not touch: the twiddle and stage registers, P, and the table entries from c on. -/
structure Regs.FhtFrame (c : Nat) (r r' : Regs F) : Prop where
  htC : ∀ k, c ≤ k → r'.htC[k]? = r.htC[k]?
  htS : ∀ k, c ≤ k → r'.htS[k]? = r.htS[k]?
  twRe : r'.twRe = r.twRe
  twIm : r'.twIm = r.twIm
  mulRe : r'.mulRe = r.mulRe
  mulIm : r'.mulIm = r.mulIm
  sStep : r'.sStep = r.sStep
  jump : r'.jump = r.jump
  piD : r'.piD = r.piD
  delta : r'.delta = r.delta
  sine : r'.sine = r.sine
  p : r'.p = r.p

variable (e : Env M F) {r : Regs F}

theorem revVisit_regs (m i : Nat) (w : Work M F) :
    (revVisit e m i w).regs = { w.regs with i := i, j := rev m i } := by
  simp only [revVisit]
  split <;> rfl

theorem permute_copyIn_fftFrame (real : Bool) (n : Nat) {w : Work M F} (h : r.FftFrame w.regs) :
    r.FftFrame (permute e n (copyIn e real n w)).regs := by
  refine forStride_keeps (P := fun v : Work M F => r.FftFrame v.regs) (fun i v hv => ?_) _ _ _
    (forStride_keeps (P := fun v : Work M F => r.FftFrame v.regs) (body := copyElem e real)
      (fun _ _ hv => ⟨hv.htC, hv.htS, hv.level, hv.scale, hv.rootN⟩) _ _ _ h)
  rw [revVisit_regs]
  exact ⟨hv.htC, hv.htS, hv.level, hv.scale, hv.rootN⟩

theorem fftCore_fftFrame (dir : Direction) (n : Nat) {w : Work M F} (h : r.FftFrame w.regs) :
    r.FftFrame (fftCore e dir n w).regs := by
  have hpair (s p : Nat) (v : Work M F) (hv : r.FftFrame v.regs) : r.FftFrame (stagePair e s p v).regs :=
    ⟨hv.htC, hv.htS, hv.level, hv.scale, hv.rootN⟩
  have hgroup (s g : Nat) (v : Work M F) (hv : r.FftFrame v.regs) : r.FftFrame (stageGroup e n s g v).regs := by
    have hpairs := forStride_keeps (P := fun v : Work M F => r.FftFrame v.regs) (stride := 2 * s) (hpair s)
      (n / (2 * s)) g (stageGroupEnter g v) ⟨hv.htC, hv.htS, hv.level, hv.scale, hv.rootN⟩
    exact ⟨hpairs.htC, hpairs.htS, hpairs.level, hpairs.scale, hpairs.rootN⟩
  have hstage (t : Nat) (v : Work M F) (hv : r.FftFrame v.regs) : r.FftFrame (stage e dir n (2 ^ t) v).regs := by
    have hgroups := forStride_keeps (P := fun v : Work M F => r.FftFrame v.regs) (stride := 1) (hgroup (2 ^ t))
      (2 ^ t) 0 (twInit e.num (twSetup e.num dir (2 ^ t) v)) ⟨hv.htC, hv.htS, hv.level, hv.scale, hv.rootN⟩
    exact ⟨hgroups.htC, hgroups.htS, hgroups.level, hgroups.scale, hgroups.rootN⟩
  exact forStride_keeps (P := fun v : Work M F => r.FftFrame v.regs) hstage _ _ _
    ⟨h.htC, h.htS, h.level, h.scale, h.rootN⟩

theorem scaleN_fftFrame (n : Nat) {w : Work M F} (h : r.FftFrame w.regs) : r.FftFrame (scaleN e n w).regs :=
  forStride_keeps (P := fun v : Work M F => r.FftFrame v.regs) (body := scaleElem e n)
    (fun _ _ hv => ⟨hv.htC, hv.htS, hv.level, hv.scale, hv.rootN⟩) _ _ _ h

/-! #### FHT -/

/-- Writing none of those registers keeps the frame. -/
theorem Regs.FhtFrame.of_eq {c : Nat} {r₁ r₂ : Regs F} (h : r.FhtFrame c r₁)
    (hr : r₂ = { r₁ with level := r₂.level, scale := r₂.scale, rootN := r₂.rootN, g := r₂.g, i := r₂.i, j := r₂.j,
                         k := r₂.k }) : r.FhtFrame c r₂ := by
  rw [hr]
  exact ⟨h.htC, h.htS, h.twRe, h.twIm, h.mulRe, h.mulIm, h.sStep, h.jump, h.piD, h.delta, h.sine, h.p⟩

theorem permute_copyIn_fhtFrame (real : Bool) (n : Nat) {c : Nat} {w : Work M F} (h : r.FhtFrame c w.regs) :
    r.FhtFrame c (permute e n (copyIn e real n w)).regs := by
  refine forStride_keeps (P := fun v : Work M F => r.FhtFrame c v.regs)
    (fun i v hv => hv.of_eq (by rw [revVisit_regs])) _ _ _
    (forStride_keeps (P := fun v : Work M F => r.FhtFrame c v.regs) (body := copyElem e real)
      (fun _ _ hv => hv.of_eq rfl) _ _ _ h)

theorem hartleyTable_fhtFrame (num : Num F) (n : Nat) {w : Work M F} (h : r.FhtFrame (n / 2) w.regs) :
    r.FhtFrame (n / 2) (hartleyTable num n w).regs := by
  refine forStride_induction (P := fun _ (v : Work M F) => r.FhtFrame (n / 2) v.regs) (n / 2) h fun t v ht hv => ?_
  refine ⟨fun k hk => ?_, fun k hk => ?_, hv.twRe, hv.twIm, hv.mulRe, hv.mulIm, hv.sStep, hv.jump, hv.piD, hv.delta,
    hv.sine, hv.p⟩
  · exact (List.getElem?_set_ne (by omega)).trans (hv.htC k hk)
  · exact (List.getElem?_set_ne (by omega)).trans (hv.htS k hk)

theorem ladder_fhtFrame (n : Nat) {c : Nat} {w : Work M F} (h : r.FhtFrame c w.regs) :
    r.FhtFrame c (ladder e n w).regs := by
  have hgroup (level g : Nat) (v : Work M F) (hv : r.FhtFrame c v.regs) :
      r.FhtFrame c (ladderGroup e n level g v).regs := by
    have hrots := forStride_keeps (P := fun v : Work M F => r.FhtFrame c v.regs) (stride := 1)
      (body := fun i => ladderRot e n level g i (level / 2 - i)) (fun _ _ hv => hv.of_eq rfl) ((level / 2 - 1) / 2) 1
      (ladderGroupEnter level v) (hv.of_eq rfl)
    have haddSubs := forStride_keeps (P := fun v : Work M F => r.FhtFrame c v.regs) (stride := 1)
      (body := ladderAddSub e level g) (fun _ _ hv => hv.of_eq rfl) (level / 2) 0 _ hrots
    exact haddSubs.of_eq rfl
  have hlevel (level : Nat) (v : Work M F) (hv : r.FhtFrame c v.regs) :
      r.FhtFrame c (ladderLevel e n level v).regs :=
    Regs.FhtFrame.of_eq (forStride_keeps (P := fun v : Work M F => r.FhtFrame c v.regs) (hgroup level) _ _
      (levelEnter v) (hv.of_eq rfl)) rfl
  exact forStride_keeps (P := fun v : Work M F => r.FhtFrame c v.regs) (fun t => hlevel (2 ^ (t + 1))) _ _ _
    (h.of_eq rfl)

theorem hartleyNorm_fhtFrame (n : Nat) {c : Nat} {w : Work M F} (h : r.FhtFrame c w.regs) :
    r.FhtFrame c (hartleyNorm e n w).regs :=
  forStride_keeps (P := fun v : Work M F => r.FhtFrame c v.regs) (body := normElem e) (fun _ _ hv => hv.of_eq rfl) _ _ _
    (h.of_eq rfl)

/-- HT.NORM writes ROOTN once, before its loop. -/
theorem hartleyNorm_rootN (n : Nat) (w : Work M F) :
    (hartleyNorm e n w).regs.rootN = e.num.fsqrt w.draw (e.num.fromNat n) :=
  forStride_keeps (P := fun v : Work M F => v.regs.rootN = e.num.fsqrt w.draw (e.num.fromNat n))
    (body := normElem e) (fun _ _ hv => hv) n 0 (normRoot e.num n w) rfl

/-! #### MAG and PHASE -/

theorem elementwise_regs (f : Nat → F → F → F) (cost n : Nat) (w : Work M F) :
    (forStride 1 (elementwiseElem e f cost) n 0 w).regs =
      { w.regs with k := (forStride 1 (elementwiseElem e f cost) n 0 w).regs.k } :=
  forStride_keeps (P := fun v : Work M F => v.regs = { w.regs with k := v.regs.k })
    (fun k _ hv => congrArg (fun q : Regs F => { q with k := k }) hv) n 0 w rfl

end Registers

end Sys2Proof.Machine
end

section
/-! PROOFS. Division, root and the configuration functions up to the bits of a NaN (00_scope R9), and the settled frames
of the commands (42_fft, 43_hartley and 44_spectral, section 2). -/

namespace Sys2Proof.Machine.Float64

/-! ### The operations that remain, up to the bits of a NaN -/

theorem SameValue.symm {a b : F64} (h : SameValue a b) : SameValue b a := h.imp Eq.symm And.symm

theorem SameValue.trans {a b c : F64} (h : SameValue a b) (h' : SameValue b c) : SameValue a c := by
  rcases h with rfl | ⟨ha, hb⟩
  · exact h'
  · rcases h' with rfl | ⟨-, hc⟩
    · exact .inr ⟨ha, hb⟩
    · exact .inr ⟨ha, hc⟩

theorem isNaN_div (d : Nat) {a b : F64} (h : (isNaN a || isNaN b) = true) : isNaN (div d a b) = true := by
  simp only [div, if_pos h, isNaN_nan]

theorem div_sameValue (d d' : Nat) (a b : F64) : SameValue (div d a b) (div d' a b) := by
  simp only [div]
  split_ifs
  · exact sameValue_nan d d'
  · exact sameValue_nan d d'
  · exact .refl _
  · exact .refl _
  · exact sameValue_nan d d'
  all_goals exact .refl _

theorem SameValue.div {a a' b b' : F64} (ha : SameValue a a') (hb : SameValue b b') (d d' : Nat) :
    SameValue (div d a b) (div d' a' b') := ha.of_nan_absorbing isNaN_div div_sameValue hb d d'

theorem sqrt_sameValue (d d' : Nat) (a : F64) : SameValue (Float64.sqrt d a) (Float64.sqrt d' a) := by
  simp only [Float64.sqrt]
  split_ifs
  · exact sameValue_nan d d'
  · exact .refl _
  · exact sameValue_nan d d'
  all_goals exact .refl _

theorem SameValue.sqrt {a a' : F64} (h : SameValue a a') (d d' : Nat) :
    SameValue (Float64.sqrt d a) (Float64.sqrt d' a') := by
  rcases h with rfl | ⟨ha, ha'⟩
  · exact sqrt_sameValue d d' a
  · exact .inr ⟨isNaN_sqrt d ha, isNaN_sqrt d' ha'⟩

/-- The root of a value that is not negative uses no free value. -/
theorem NonNegative.sqrt_draw {a : F64} (ha : NonNegative a) (d d' : Nat) : Float64.sqrt d a = Float64.sqrt d' a :=
  (sqrt_sameValue d d' a).resolve_right fun h => Bool.false_ne_true ((ha.sqrt d).1.symm.trans h.1)

theorem SameValue.sin {a a' : F64} (h : SameValue a a') (raw : F64 → F64) : SameValue (sin raw a) (sin raw a') := by
  rcases h with rfl | ⟨ha, ha'⟩
  · exact .refl _
  · exact .inr ⟨isNaN_sin raw ha, isNaN_sin raw ha'⟩

theorem SameValue.cos {a a' : F64} (h : SameValue a a') (raw : F64 → F64) : SameValue (cos raw a) (cos raw a') := by
  rcases h with rfl | ⟨ha, ha'⟩
  · exact .refl _
  · exact .inr ⟨isNaN_cos raw ha, isNaN_cos raw ha'⟩

end Sys2Proof.Machine.Float64

namespace Sys2Proof.Machine

open Float64 (SameValue)

theorem SameValue.magE {re re' im im' : F64} (hre : SameValue re re') (him : SameValue im im') (d d' : Nat) :
    SameValue (magE coreNum d re im) (magE coreNum d' re' im') :=
  ((hre.mul hre d d').add (him.mul him (d + 1) (d' + 1)) (d + 2) (d' + 2)).sqrt (d + 3) (d' + 3)

/-! ### The elements of ELEMENTWISE -/

/-- Every element below n holds f of its source, with some free value, and +0. -/
theorem dst_elementwise {M F : Type} {e : Env M F} {b n : Nat} (he : e.ReadsStores b) (hn : n ≤ b)
    (f : Nat → F → F → F) (cost : Nat) (w : Work M F) {k : Nat} (hk : k < n) :
    (∃ d, e.dst (forStride 1 (elementwiseElem e f cost) n 0 w).mem k .re =
      f d (e.src w.mem k .re) (e.src w.mem k .im)) ∧
    e.dst (forStride 1 (elementwiseElem e f cost) n 0 w).mem k .im = e.num.zero := by
  have hloop := forStride_induction (body := elementwiseElem e f cost) (stride := 1) (i := 0) (w := w)
    (P := fun t (v : Work M F) => (∀ k l, k < b → e.src v.mem k l = e.src w.mem k l) ∧
      ∀ k, k < t → (∃ d, e.dst v.mem k .re = f d (e.src w.mem k .re) (e.src w.mem k .im)) ∧
        e.dst v.mem k .im = e.num.zero) n
    ⟨fun _ _ _ => rfl, fun _ h => absurd h (Nat.not_lt_zero _)⟩ fun t v ht ih => ?_
  · exact hloop.2 k hk
  obtain ⟨hsrc, hdst⟩ := ih
  have htb : t < b := ht.trans_le hn
  rw [Nat.zero_add, Nat.mul_one]
  refine ⟨fun k l hk => ?_, fun k hk => ?_⟩
  · rw [elementwiseElem_mem, src_put_pair he htb hk, hsrc k l hk]
  · rw [elementwiseElem_mem, dst_put_pair he htb (by omega), dst_put_pair he htb (by omega), hsrc t _ htb,
      hsrc t _ htb]
    split
    next heq => exact ⟨⟨v.draw, by rw [heq]; rfl⟩, rfl⟩
    next hne => exact hdst k (by omega)

/-! ### The commands complete -/

/-- Settles O27: no stage touches the Hartley registers. -/
theorem fftCompletes : Obligations.FftCompletes := by
  intro i s m hi hb hm hmax hlen
  have hframe := completedState_frame (i := i) hb (hlen ▸ validateLength_two_pow i hm hmax)
  rw [hlen] at hframe
  obtain ⟨hexec, hdone, hout, hresult, hsrc⟩ := hframe
  have hregs : s.regs.FftFrame (completedState i s).regs := by
    have hcore (dir : Direction) : s.regs.FftFrame (fftCore s.startEnv dir s.len.toNat
        (permute s.startEnv s.len.toNat (copyIn s.startEnv false s.len.toNat s.startWork))).regs :=
      fftCore_fftFrame _ dir _ (permute_copyIn_fftFrame _ false _ ⟨rfl, rfl, rfl, rfl, rfl⟩)
    rcases hi with rfl | rfl
    · exact hcore .forward
    · exact scaleN_fftFrame _ _ (hcore .inverse)
  exact ⟨_, hexec, hdone, hout, hresult, hsrc, hregs.htC, hregs.htS, hregs.level, hregs.scale, hregs.rootN⟩

/-- Settles O28: the imaginary lanes are written by the copy alone, and the root uses no free value. -/
theorem fhtCompletes : Obligations.FhtCompletes := by
  intro s m hb hm hmax hlen
  have hn : 2 ^ m ≤ Config.nmax := Nat.pow_le_pow_right two_pos hmax
  have hframe := completedState_frame (i := .fht) hb (hlen ▸ validateLength_two_pow .fht hm hmax)
  have hregs := completedState_regs .fht s
  have hmem := completedState_dst .fht s
  rw [hlen] at hframe hregs hmem
  obtain ⟨hexec, hdone, hout, hresult, hsrc⟩ := hframe
  have he : s.startEnv.ReadsStores Config.nmax := bufferEnv_readsStores _ _ _
  have hf : s.regs.FhtFrame (2 ^ m / 2) (completedState .fht s).regs := by
    rw [hregs]
    have hstart : s.regs.FhtFrame (2 ^ m / 2) s.startWork.regs :=
      ⟨fun _ _ => rfl, fun _ _ => rfl, rfl, rfl, rfl, rfl, rfl, rfl, rfl, rfl, rfl, rfl⟩
    exact hartleyNorm_fhtFrame _ _ (ladder_fhtFrame _ _ (hartleyTable_fhtFrame _ _
      (permute_copyIn_fhtFrame _ true _ hstart)))
  refine ⟨_, hexec, hdone, hout, hresult, hsrc, fun k hk => ?_, ?_, fun k hk => ⟨hf.htC k hk, hf.htS k hk⟩, hf.twRe,
    hf.twIm, hf.mulRe, hf.mulIm, hf.sStep, hf.jump, hf.piD, hf.delta, hf.sine, hf.p⟩
  · have hcopied := dst_permute_copyIn he true hn hk .im s.startWork
    exact (hmem k .im).trans (((storesReal_hartley_tail s.startEnv _ _).dst_im he hn (hk.trans_le hn)).trans hcopied)
  · rw [hregs]
    exact (hartleyNorm_rootN s.startEnv _ _).trans ((Float64.nonNegative_fromNat _).sqrt_draw _ 0)

/-- What MAG and PHASE have in common: their frame, and the refusal above the capacity. -/
theorem elementwise_completes {i : Instr} {f : Nat → F64 → F64 → F64} {cost : Nat}
    (hi : lengthInvalid i = fun _ => false)
    (hproc : ∀ e : Env Memory F64, e.num = coreNum → ∀ n w,
      procedureOf i e n w = forStride 1 (elementwiseElem e f cost) n 0 w)
    {s : State} (hb : s.busy = false) :
    (s.len.toNat ≤ Config.nmax →
      ∃ t, exec i s = .next t ∧ s.doneFrame i t ∧ Memory.sameOutsideDst s.mem t.mem ∧
        t.resultLength s.len.toNat ∧ (∀ k l, k < Config.nmax → t.src k l = s.src k l) ∧
        t.regs = { s.regs with k := t.regs.k } ∧
        ∀ k, k < s.len.toNat → (∃ d, t.dst k .re = f d (s.src k .re) (s.src k .im)) ∧ t.dst k .im = 0) ∧
    (Config.nmax < s.len.toNat → ∃ t, exec i s = .next t ∧ s.refusedFrame (encode i) .resourceExhausted t) := by
  have hvalid : ¬ lengthInvalid i s.len.toNat = true := by rw [hi]; exact Bool.false_ne_true
  refine ⟨fun hlen => ?_, fun hlen => exec_refused hb (validateLength_of_nmax_lt hvalid hlen)⟩
  obtain ⟨hexec, hdone, hout, hresult, hsrc⟩ := completedState_frame hb (validateLength_of_le_nmax hvalid hlen)
  have hregs := completedState_regs i s
  have hmem := completedState_dst i s
  rw [hproc s.startEnv rfl] at hregs hmem
  refine ⟨_, hexec, hdone, hout, hresult, hsrc, ?_, fun k hk => ?_⟩
  · rw [hregs]
    exact elementwise_regs _ f cost _ _
  · have he : s.startEnv.ReadsStores Config.nmax := bufferEnv_readsStores _ _ _
    obtain ⟨⟨d, hre⟩, him⟩ := dst_elementwise he hlen f cost s.startWork hk
    rw [startEnv_src s (hk.trans_le hlen), startEnv_src s (hk.trans_le hlen)] at hre
    exact ⟨⟨d, (hmem k .re).trans hre⟩, (hmem k .im).trans him⟩

/-- Settles O29: the free values reach the bits of a NaN alone. -/
theorem magCompletes : Obligations.MagCompletes := by
  refine ⟨by decide, fun s hb => ?_⟩
  obtain ⟨hcompletes, hrefused⟩ := elementwise_completes (i := .mag) (f := magE coreNum) (cost := 4) rfl
    (fun e he n w => by rw [← he]; rfl) hb
  refine ⟨fun hlen => ?_, hrefused⟩
  obtain ⟨t, hexec, hdone, hout, hresult, hsrc, hregs, hlanes⟩ := hcompletes hlen
  refine ⟨t, hexec, hdone, hout, hresult, hsrc, hregs, fun k hk => ?_⟩
  obtain ⟨⟨d, hre⟩, him⟩ := hlanes k hk
  exact ⟨hre ▸ SameValue.magE (.refl _) (.refl _) d 0, him⟩

/-- Settles O30: ATAN2 takes no free value. -/
theorem phaseCompletes : Obligations.PhaseCompletes := by
  refine ⟨by decide, fun s hb => ?_⟩
  obtain ⟨hcompletes, hrefused⟩ := elementwise_completes (i := .phase) (f := fun _ => phaseE coreNum) (cost := 0) rfl
    (fun e he n w => by rw [← he]; rfl) hb
  refine ⟨fun hlen => ?_, hrefused⟩
  obtain ⟨t, hexec, hdone, hout, hresult, hsrc, hregs, hlanes⟩ := hcompletes hlen
  refine ⟨t, hexec, hdone, hout, hresult, hsrc, hregs, fun k hk => ?_⟩
  obtain ⟨⟨-, hre⟩, him⟩ := hlanes k hk
  exact ⟨.inl hre, him⟩

end Sys2Proof.Machine
end

section
/-! PROOFS. Two runs of the stages over two environments whose lanes agree end with lanes that agree (42_fft R112), and
the first use of it: the two directions mirror each other. -/

namespace Sys2Proof.Machine

section Related

variable {M M' F F' : Type} {e : Env M F} {e' : Env M' F'} {n : Nat} {dir dir' : Direction}

theorem Env.ReadsStores.mono {b : Nat} (he : e.ReadsStores b) (h : n ≤ b) : e.ReadsStores n :=
  ⟨fun m _ _ l l' x hk hk' => he.dst_put m l l' x (hk.trans_le h) (hk'.trans_le h),
    fun m _ _ l l' x hk hk' => he.src_put m l l' x (hk.trans_le h) (hk'.trans_le h)⟩

theorem sequenceEnv_readsStores (num : Num F) (x : Nat → F × F) (n : Nat) : (sequenceEnv num x).ReadsStores n where
  dst_put m k k' l l' v _ _ := by
    by_cases h : k' = k
    · subst h
      cases l <;> cases l' <;> simp [sequenceEnv]
    · simp [sequenceEnv, h]
  src_put _ _ _ _ _ _ _ _ := rfl

/-- The lanes of DST[0..n-1] in two memories are related lane by lane. -/
def LanesRelated (e : Env M F) (e' : Env M' F') (n : Nat) (L : Lane → F → F' → Prop) (m : M) (m' : M') : Prop :=
  ∀ k l, k < n → L l (e.dst m k l) (e'.dst m' k l)

variable {L : Lane → F → F' → Prop} (he : e.ReadsStores n) (he' : e'.ReadsStores n)
include he he'

theorem LanesRelated.put_pair {w : Work M F} {w' : Work M' F'} (h : LanesRelated e e' n L w.mem w'.mem) {k : Nat}
    (hk : k < n) {re im : F} {re' im' : F'} (hre : L .re re re') (him : L .im im im') :
    LanesRelated e e' n L (w.put e k re im).mem (w'.put e' k re' im').mem := fun k' l hk' => by
  rw [dst_put_pair he hk hk', dst_put_pair he' hk hk']
  split
  · cases l
    · exact hre
    · exact him
  · exact h k' l hk'

theorem LanesRelated.bfly {p q : Nat} (hp : p < n) (hq : q < n) {w : Work M F} {w' : Work M' F'}
    (h : LanesRelated e e' n L w.mem w'.mem) (hsum : ∀ l, L l (bflySum e p q w l) (bflySum e' p q w' l))
    (hdiff : ∀ l, L l (bflyDifference e p q w l) (bflyDifference e' p q w' l)) :
    LanesRelated e e' n L (bfly e p q w).mem (bfly e' p q w').mem := fun k l hk => by
  rw [dst_bfly he hp hq hk, dst_bfly he' hp hq hk]
  split
  · exact hsum l
  · split
    · exact hdiff l
    · exact h k l hk

omit he he'

/-! ### The stages -/

/-- The multiplier pair and the rotation factor. -/
def Regs.factors (r : Regs F) : (F × F) × (F × F) := ((r.mulRe, r.mulIm), (r.twRe, r.twIm))

/-- The micro-operations of the stages keep a relation of the memories and a relation of the factors. -/
structure StagesAgree (e : Env M F) (e' : Env M' F') (dir dir' : Direction) (n : Nat) (D : M → M' → Prop)
    (C : (F × F) × (F × F) → (F' × F') × (F' × F') → Prop) : Prop where
  setup : ∀ st (w : Work M F) (w' : Work M' F'), C (twInit e.num (twSetup e.num dir st w)).regs.factors
    (twInit e'.num (twSetup e'.num dir' st w')).regs.factors
  advance : ∀ {w : Work M F} {w' : Work M' F'}, C w.regs.factors w'.regs.factors →
    C (twAdv e.num w).regs.factors (twAdv e'.num w').regs.factors
  bfly : ∀ {p q} {w : Work M F} {w' : Work M' F'}, p < q → q < n → D w.mem w'.mem →
    C w.regs.factors w'.regs.factors → D (bfly e p q w).mem (bfly e' p q w').mem

variable {D : M → M' → Prop} {C : (F × F) × (F × F) → (F' × F') × (F' × F') → Prop}

/-- Both relations hold. -/
def WorksAgree (D : M → M' → Prop) (C : (F × F) × (F × F) → (F' × F') × (F' × F') → Prop) (w : Work M F)
    (w' : Work M' F') : Prop := D w.mem w'.mem ∧ C w.regs.factors w'.regs.factors

namespace StagesAgree

variable (h : StagesAgree e e' dir dir' n D C)
include h

theorem group {st g : Nat} (hg : g < st) {w : Work M F} {w' : Work M' F'} (hw : WorksAgree D C w w') :
    WorksAgree D C (stageGroup e n st g w) (stageGroup e' n st g w') := by
  have hpairs : WorksAgree D C (forStride (2 * st) (stagePair e st) (n / (2 * st)) g (stageGroupEnter g w))
      (forStride (2 * st) (stagePair e' st) (n / (2 * st)) g (stageGroupEnter g w')) :=
    forStride_related _ hw fun t v v' ht hv => ⟨h.bfly (by omega) (stage_pair_lt hg ht) hv.1 hv.2, hv.2⟩
  exact ⟨hpairs.1, h.advance hpairs.2⟩

theorem stage {st : Nat} {w : Work M F} {w' : Work M' F'} (hw : D w.mem w'.mem) :
    D (stage e dir n st w).mem (stage e' dir' n st w').mem :=
  (forStride_related (R := WorksAgree D C) (stride := 1) (i := 0) (w := twInit e.num (twSetup e.num dir st w))
    (v := twInit e'.num (twSetup e'.num dir' st w')) st ⟨hw, h.setup st w w'⟩
    fun t _ _ ht hv => h.group (by omega) hv).1

theorem fftCore {w : Work M F} {w' : Work M' F'} (hw : D w.mem w'.mem) :
    D (fftCore e dir n w).mem (fftCore e' dir' n w').mem :=
  forStride_related (R := fun w w' => D w.mem w'.mem) (stride := 1)
    (body := fun t => Machine.stage e dir n (2 ^ t)) (body' := fun t => Machine.stage e' dir' n (2 ^ t)) _ hw
    fun _ _ _ _ hv => h.stage hv

end StagesAgree

end Related

/-! ### The two directions (42_fft, section 3) -/

open Float64

/-- The lanes of an element of the inverse stages are those of the forward ones, conjugated. -/
def ConjugateLane : Lane → F64 → F64 → Prop
  | .re, y, z => SameNumber z y
  | .im, y, z => SameNumber z (neg y)

/-- The factors of the inverse direction are those of the forward one, conjugated. -/
def ConjugatePairs (c c' : (F64 × F64) × (F64 × F64)) : Prop :=
  (SameNumber c'.1.1 c.1.1 ∧ SameNumber c'.1.2 (neg c.1.2)) ∧ SameNumber c'.2.1 c.2.1 ∧ SameNumber c'.2.2 (neg c.2.2)

theorem conjugatePairs_iff {r r' : Regs F64} : ConjugatePairs r.factors r'.factors ↔ r.ConjugateFactors r' :=
  ⟨fun ⟨⟨h1, h2⟩, h3, h4⟩ => ⟨h1, h2, h3, h4⟩, fun ⟨h1, h2, h3, h4⟩ => ⟨⟨h1, h2⟩, h3, h4⟩⟩

section Conjugation

variable {M : Type} {e e' : Env M F64} {n : Nat} {sinRaw cosRaw : F64 → F64}
  {atan2Raw : F64 → F64 → F64}

/-- The product of a conjugate factor and a conjugate pair is the conjugate product. -/
theorem bflyProduct_conjugate {r r' : Regs F64} (hr : r.ConjugateFactors r') {b b' : Lane → F64}
    (hb : ∀ l, ConjugateLane l (b l) (b' l)) (d d' : Nat) (l : Lane) :
    ConjugateLane l (bflyProduct (Float64.num sinRaw cosRaw atan2Raw) r d b l)
      (bflyProduct (Float64.num sinRaw cosRaw atan2Raw) r' d' b' l) := by
  cases l
  case re => exact (hr.twRe.mul (hb .re) _ _).sub (hr.twIm.mul_neg_neg (hb .im) _ _) _ _
  case im => exact (hr.twRe.mul_neg_right (hb .im) _ _).add_neg (hr.twIm.mul_neg_left (hb .re) _ _) _ _

theorem stagesAgree_conjugate (he : e.ReadsStores n) (he' : e'.ReadsStores n)
    (hnum : e.num = Float64.num sinRaw cosRaw atan2Raw) (hnum' : e'.num = Float64.num sinRaw cosRaw atan2Raw) (b : Nat)
    (hb : b ≤ n) :
    StagesAgree e e' .forward .inverse b (LanesRelated e e' n ConjugateLane) ConjugatePairs where
  setup st w w' := by
    rw [hnum, hnum']
    exact conjugatePairs_iff.2 (twSetup_conjugate sinRaw cosRaw atan2Raw st w w')
  advance h := by
    rw [hnum, hnum']
    exact conjugatePairs_iff.2 (twAdv_conjugate sinRaw cosRaw atan2Raw (conjugatePairs_iff.1 h))
  bfly {p q w w'} hpq hq hD hC := by
    have hqn := hq.trans_le hb
    have hpn := hpq.trans hqn
    have hprod := bflyProduct_conjugate (sinRaw := sinRaw) (cosRaw := cosRaw) (atan2Raw := atan2Raw)
      (conjugatePairs_iff.1 hC) (fun l => hD q l hqn) w.draw w'.draw
    refine hD.bfly he he' hpn hqn (fun l => ?_) (fun l => ?_)
    · simp only [bflySum, hnum, hnum']
      cases l
      · exact (hD p .re hpn).add (hprod .re) _ _
      · exact SameNumber.add_neg (hD p .im hpn) (hprod .im) _ _
    · simp only [bflyDifference, hnum, hnum']
      cases l
      · exact (hD p .re hpn).sub (hprod .re) _ _
      · exact SameNumber.add_neg (hD p .im hpn) (hprod .im).neg _ _

end Conjugation

/-- Settles O58: every micro-operation of the stages keeps the conjugation of the factors and of the lanes. -/
theorem conjugationExchangesTheDirections : Obligations.ConjugationExchangesTheDirections := by
  intro sinRaw cosRaw atan2Raw m regs x d d' e y z k
  have hreads := sequenceEnv_readsStores (Float64.num sinRaw cosRaw atan2Raw) x (2 ^ m + k + 1)
  have hstart : LanesRelated e e (2 ^ m + k + 1) ConjugateLane (fun k => ((x k).1, neg (x k).2)) x := fun j l _ => by
    cases l
    · exact .refl _
    · exact .inl (.inl (Float64.neg_neg _).symm)
  have hcore := (stagesAgree_conjugate hreads hreads rfl rfl (2 ^ m) (by omega)).fftCore
    (w := ⟨fun k => ((x k).1, neg (x k).2), regs, d⟩) (w' := ⟨x, regs, d'⟩) hstart
  have hk : k < 2 ^ m + k + 1 := Nat.lt_succ_of_le (Nat.le_add_left k _)
  exact ⟨hcore k .re hk, hcore k .im hk⟩

end Sys2Proof.Machine
end

section
/-! PROOFS. Two runs of a procedure on the core whose inputs agree end with results that agree, up to the bits of a NaN
(70_reset, section 3): over any two environments, so also over the buffers and over a bare sequence. -/

namespace Sys2Proof.Machine

open Float64

/-! ### The entries of HT.TABLE -/

section Table

variable {M F : Type} (num : Num F) (n : Nat)

/-- The angle of entry k, from the free value d on (43 R130). -/
def tableAngle (d k : Nat) : F :=
  num.div (d + 2) (num.mul (d + 1) (num.mul d (num.fromNat 2) num.pi) (num.fromNat k)) (num.fromNat n)

/-- HT.TABLE writes the entries below N/2 that the tables have. -/
theorem hartleyTable_entry (w : Work M F) {k : Nat} (hk : k < n / 2) :
    (hartleyTable num n w).regs.htC[k]? =
      w.regs.htC[k]?.map (fun _ => num.cos (tableAngle num n (w.draw + 3 * k) k)) ∧
    (hartleyTable num n w).regs.htS[k]? =
      w.regs.htS[k]?.map (fun _ => num.sin (tableAngle num n (w.draw + 3 * k) k)) := by
  have hloop := forStride_induction (body := tableEntry num n) (stride := 1) (i := 0) (w := w)
    (P := fun t (v : Work M F) => v.draw = w.draw + 3 * t ∧ ∀ k,
      v.regs.htC[k]? = (if k < t then
        w.regs.htC[k]?.map (fun _ => num.cos (tableAngle num n (w.draw + 3 * k) k)) else w.regs.htC[k]?) ∧
      v.regs.htS[k]? = (if k < t then
        w.regs.htS[k]?.map (fun _ => num.sin (tableAngle num n (w.draw + 3 * k) k)) else w.regs.htS[k]?)) (n / 2)
    ⟨rfl, fun _ => ⟨rfl, rfl⟩⟩ fun t v _ ⟨hdraw, hv⟩ => ⟨by simp only [tableEntry, hdraw]; omega, fun k => ?_⟩
  · have hk' := hloop.2 k
    rwa [if_pos hk, if_pos hk] at hk'
  obtain ⟨hC, hS⟩ := hv k
  rw [Nat.zero_add, Nat.mul_one]
  have hentry : (tableEntry num n t v).regs.htC = v.regs.htC.set t (num.cos (tableAngle num n v.draw t)) ∧
      (tableEntry num n t v).regs.htS = v.regs.htS.set t (num.sin (tableAngle num n v.draw t)) := ⟨rfl, rfl⟩
  rw [hentry.1, hentry.2, List.getElem?_set', List.getElem?_set', hdraw]
  by_cases h : t = k
  · subst h
    rw [if_neg (lt_irrefl t)] at hC hS
    simp only [if_pos (Nat.lt_succ_self t), if_true, hC, hS]
    exact ⟨rfl, rfl⟩
  · have hiff : k < t + 1 ↔ k < t := by omega
    simp only [if_neg h, hiff]
    exact ⟨hC, hS⟩

end Table

theorem permute_copyIn_htC {M F : Type} (e : Env M F) (real : Bool) (n : Nat) (w : Work M F) :
    (permute e n (copyIn e real n w)).regs.htC = w.regs.htC :=
  (permute_copyIn_fftFrame e real n ⟨rfl, rfl, rfl, rfl, rfl⟩).htC

theorem permute_copyIn_htS {M F : Type} (e : Env M F) (real : Bool) (n : Nat) (w : Work M F) :
    (permute e n (copyIn e real n w)).regs.htS = w.regs.htS :=
  (permute_copyIn_fftFrame e real n ⟨rfl, rfl, rfl, rfl, rfl⟩).htS

/-! ### Numbers up to the bits of a NaN -/

/-- Arguments that agree up to the bits of a NaN have results that agree, whichever free values are drawn. -/
structure Num.RespectsSame (num : Num F64) : Prop where
  add : ∀ {a a' b b'}, SameValue a a' → SameValue b b' → ∀ d d', SameValue (num.add d a b) (num.add d' a' b')
  sub : ∀ {a a' b b'}, SameValue a a' → SameValue b b' → ∀ d d', SameValue (num.sub d a b) (num.sub d' a' b')
  mul : ∀ {a a' b b'}, SameValue a a' → SameValue b b' → ∀ d d', SameValue (num.mul d a b) (num.mul d' a' b')
  div : ∀ {a a' b b'}, SameValue a a' → SameValue b b' → ∀ d d', SameValue (num.div d a b) (num.div d' a' b')
  neg : ∀ {a a'}, SameValue a a' → SameValue (num.neg a) (num.neg a')
  fsqrt : ∀ {a a'}, SameValue a a' → ∀ d d', SameValue (num.fsqrt d a) (num.fsqrt d' a')
  sin : ∀ {a a'}, SameValue a a' → SameValue (num.sin a) (num.sin a')
  cos : ∀ {a a'}, SameValue a a' → SameValue (num.cos a) (num.cos a')
  atan2 : ∀ {a a' b b'}, SameValue a a' → SameValue b b' → SameValue (num.atan2 a b) (num.atan2 a' b')

theorem respectsSame_num (sinRaw cosRaw : F64 → F64) (atan2Raw : F64 → F64 → F64) :
    (Float64.num sinRaw cosRaw atan2Raw).RespectsSame where
  add := SameValue.add
  sub := SameValue.sub
  mul := SameValue.mul
  div := SameValue.div
  neg := SameValue.neg
  fsqrt := SameValue.sqrt
  sin h := h.sin sinRaw
  cos h := h.cos cosRaw
  atan2 h h' := h.of_nan_absorbing (op := fun _ => Float64.atan2 atan2Raw)
    (fun _ _ _ hn => isNaN_atan2 _ (by simpa using hn)) (fun _ _ _ _ => .refl _) h' 0 0

section Core

variable {M M' : Type} {e : Env M F64} {e' : Env M' F64} {n : Nat}

/-- Lanes of DST[0..n-1] agree in two memories, up to the bits of a NaN. -/
abbrev Env.Agree (e : Env M F64) (e' : Env M' F64) (n : Nat) (m : M) (m' : M') : Prop :=
  LanesRelated e e' n (fun _ => SameValue) m m'

/-- SRC[0..n-1] agrees in two memories as far as a command reads it. -/
def Env.SameInput (e : Env M F64) (e' : Env M' F64) (n : Nat) (real : Bool) (m : M) (m' : M') : Prop :=
  ∀ k, k < n → SameValue (e.src m k .re) (e'.src m' k .re) ∧
    (real = false → SameValue (e.src m k .im) (e'.src m' k .im))

/-- Two environments over the same numbers that read their stores back. -/
structure OnCore (e : Env M F64) (e' : Env M' F64) (n : Nat) : Prop where
  reads : e.ReadsStores n
  reads' : e'.ReadsStores n
  num : e'.num = e.num
  respects : e.num.RespectsSame

variable (h : OnCore e e' n)
include h

theorem OnCore.copied {m : Nat} (hm : 2 ^ m = n) {real : Bool} {w : Work M F64} {w' : Work M' F64}
    (hin : e.SameInput e' n real w.mem w'.mem) :
    e.Agree e' n (permute e n (copyIn e real n w)).mem (permute e' n (copyIn e' real n w')).mem := by
  subst hm
  intro k l hk
  obtain ⟨hre, him⟩ := hin (rev m k) (rev_lt m k)
  rw [dst_permute_copyIn h.reads real le_rfl hk, dst_permute_copyIn h.reads' real le_rfl hk, copiedLane, copiedLane,
    h.num]
  cases l
  · exact hre
  · cases real
    · exact him rfl
    · exact .refl _

/-! ### The stages and the scaling -/

/-- The factors agree. -/
def SamePairs (c c' : (F64 × F64) × (F64 × F64)) : Prop :=
  (SameValue c.1.1 c'.1.1 ∧ SameValue c.1.2 c'.1.2) ∧ SameValue c.2.1 c'.2.1 ∧ SameValue c.2.2 c'.2.2

omit h in
theorem Num.RespectsSame.bflyProduct {num : Num F64} (h : num.RespectsSame) {r r' : Regs F64}
    (hr : SamePairs r.factors r'.factors) {b b' : Lane → F64}
    (hb : ∀ l, SameValue (b l) (b' l)) (d d' : Nat) (l : Lane) :
    SameValue (bflyProduct num r d b l) (bflyProduct num r' d' b' l) := by
  obtain ⟨-, hre, him⟩ := hr
  cases l
  case re => exact h.sub (h.mul hre (hb .re) _ _) (h.mul him (hb .im) _ _) _ _
  case im => exact h.add (h.mul hre (hb .im) _ _) (h.mul him (hb .re) _ _) _ _

theorem OnCore.stagesAgree (dir : Direction) : StagesAgree e e' dir dir n (e.Agree e' n) SamePairs where
  setup st w w' := by
    obtain ⟨-, -, hnum, hr⟩ := h
    rw [hnum]
    have hpi := hr.mul (.refl (match dir with | .forward => e.num.fromNat 1 | .inverse => e.num.neg (e.num.fromNat 1)))
      (.refl (e.num.neg e.num.pi)) w.draw w'.draw
    have hdelta := hr.div hpi (.refl (e.num.fromNat st)) (w.draw + 1) (w'.draw + 1)
    have hsine := hr.sin (hr.div hdelta (.refl (e.num.fromNat 2)) (w.draw + 2) (w'.draw + 2))
    exact ⟨⟨hr.neg (hr.mul (.refl _) (hr.mul hsine hsine _ _) _ _), hr.sin hdelta⟩, .refl _, .refl _⟩
  advance {w w'} hC := by
    obtain ⟨-, -, hnum, hr⟩ := h
    rw [hnum]
    obtain ⟨⟨hmre, hmim⟩, htre, htim⟩ := hC
    exact ⟨⟨hmre, hmim⟩, hr.add (hr.sub (hr.mul hmre htre _ _) (hr.mul hmim htim _ _) _ _) htre _ _,
      hr.add (hr.add (hr.mul hmim htre _ _) (hr.mul hmre htim _ _) _ _) htim _ _⟩
  bfly {p q w w'} hpq hq hD hC := by
    have hr := h.respects
    have hp := hpq.trans hq
    have hprod := hr.bflyProduct hC (fun l => hD q l hq) w.draw w'.draw
    refine hD.bfly h.reads h.reads' hp hq (fun l => ?_) (fun l => ?_)
    · simp only [bflySum, h.num]
      cases l
      · exact hr.add (hD p .re hp) (hprod .re) _ _
      · exact hr.add (hD p .im hp) (hprod .im) _ _
    · simp only [bflyDifference, h.num]
      cases l
      · exact hr.sub (hD p .re hp) (hprod .re) _ _
      · exact hr.sub (hD p .im hp) (hprod .im) _ _

theorem OnCore.scaleN {w : Work M F64} {w' : Work M' F64} (hw : e.Agree e' n w.mem w'.mem) :
    e.Agree e' n (scaleN e n w).mem (scaleN e' n w').mem := by
  refine forStride_related (R := fun (w : Work M F64) (w' : Work M' F64) => e.Agree e' n w.mem w'.mem) (stride := 1)
    (body := scaleElem e n) (body' := scaleElem e' n) n hw fun t v v' ht hv => ?_
  have hk : 0 + t * 1 < n := by omega
  have hdiv (l : Lane) (d d' : Nat) : SameValue (e.num.div d (e.dst v.mem (0 + t * 1) l) (e.num.fromNat n))
      (e'.num.div d' (e'.dst v'.mem (0 + t * 1) l) (e'.num.fromNat n)) := by
    rw [h.num]
    exact h.respects.div (hv _ l hk) (.refl _) d d'
  exact LanesRelated.put_pair h.reads h.reads' hv hk (hdiv .re _ _) (hdiv .im _ _)

theorem OnCore.fftForward {m : Nat} (hm : 2 ^ m = n) {w : Work M F64} {w' : Work M' F64}
    (hin : e.SameInput e' n false w.mem w'.mem) :
    e.Agree e' n (fftForward e n w).mem (fftForward e' n w').mem :=
  (h.stagesAgree .forward).fftCore (h.copied hm hin)

theorem OnCore.fftInverse {m : Nat} (hm : 2 ^ m = n) {w : Work M F64} {w' : Work M' F64}
    (hin : e.SameInput e' n false w.mem w'.mem) :
    e.Agree e' n (fftInverse e n w).mem (fftInverse e' n w').mem :=
  h.scaleN ((h.stagesAgree .inverse).fftCore (h.copied hm hin))

/-! ### The Hartley unit -/

omit h in
/-- The table entries below c agree, a missing one counted as z. -/
def Regs.TablesAgree (z : F64) (c : Nat) (r r' : Regs F64) : Prop :=
  ∀ t, t < c → SameValue (r.htC.getD t z) (r'.htC.getD t z) ∧ SameValue (r.htS.getD t z) (r'.htS.getD t z)

omit h in
theorem getD_map_sameValue {z x x' : F64} {l l' : List F64} (hl : l.length = l'.length) (hx : SameValue x x')
    (t : Nat) :
    SameValue ((l[t]?.map fun _ => x).getD z) ((l'[t]?.map fun _ => x').getD z) := by
  by_cases hlt : t < l.length
  · rw [List.getElem?_eq_getElem hlt, List.getElem?_eq_getElem (hl ▸ hlt)]
    exact hx
  · rw [List.getElem?_eq_none (by omega), List.getElem?_eq_none (by omega)]
    exact .refl _

omit h in
/-- Tables of equal lengths, filled alike. -/
theorem Num.RespectsSame.hartleyTable {num : Num F64} (hr : num.RespectsSame) (z : F64) {w : Work M F64}
    {w' : Work M' F64} (hC : w.regs.htC.length = w'.regs.htC.length) (hS : w.regs.htS.length = w'.regs.htS.length) :
    (hartleyTable num n w).regs.TablesAgree z (n / 2) (hartleyTable num n w').regs := by
  intro t ht
  obtain ⟨hc, hs⟩ := hartleyTable_entry num n w ht
  obtain ⟨hc', hs'⟩ := hartleyTable_entry num n w' ht
  have hangle : SameValue (tableAngle num n (w.draw + 3 * t) t) (tableAngle num n (w'.draw + 3 * t) t) :=
    hr.div (hr.mul (hr.mul (.refl _) (.refl _) _ _) (.refl _) _ _) (.refl _) _ _
  simp only [List.getD_eq_getElem?_getD, hc, hs, hc', hs']
  exact ⟨getD_map_sameValue hC (hr.cos hangle) t, getD_map_sameValue hS (hr.sin hangle) t⟩

omit h in
/-- Lanes and table entries agree. -/
def Work.LadderAgree (e : Env M F64) (e' : Env M' F64) (n : Nat) (w : Work M F64) (w' : Work M' F64) : Prop :=
  e.Agree e' n w.mem w'.mem ∧ w.regs.TablesAgree e.num.zero (n / 2) w'.regs

theorem OnCore.putRePair {w : Work M F64} {w' : Work M' F64} (hw : e.Agree e' n w.mem w'.mem) {x y : Nat} (hx : x < n)
    (hy : y < n) {u v u' v' : F64} (hu : SameValue u u') (hv : SameValue v v') :
    e.Agree e' n (w.putRePair e x y u v).mem (w'.putRePair e' x y u' v').mem := fun k l hk => by
  rw [dst_putRePair h.reads hx hy hk, dst_putRePair h.reads' hx hy hk]
  split
  · exact hv
  · split
    · exact hu
    · exact hw k l hk

omit h in
/-- HT.ROT, whether or not the tables have the entry. -/
theorem htRot_eq_getD (e : Env M F64) (x y t : Nat) (w : Work M F64) :
    htRot e x y t w =
      (w.putRePair e x y
        (rotationSum e.num w.draw (e.dst w.mem x .re) (e.dst w.mem y .re) (w.regs.htC.getD t e.num.zero)
          (w.regs.htS.getD t e.num.zero))
        (rotationDifference e.num (w.draw + 3) (e.dst w.mem x .re) (e.dst w.mem y .re) (w.regs.htC.getD t e.num.zero)
          (w.regs.htS.getD t e.num.zero))).spend 6 := rfl

theorem OnCore.htRot {w : Work M F64} {w' : Work M' F64} (hw : w.LadderAgree e e' n w') {x y t : Nat} (hx : x < n)
    (hy : y < n) (ht : t < n / 2) : e.Agree e' n (htRot e x y t w).mem (htRot e' x y t w').mem := by
  obtain ⟨hmem, htab⟩ := hw
  obtain ⟨hc, hs⟩ := htab t ht
  rw [htRot_eq_getD, htRot_eq_getD, h.num]
  have ha := hmem x .re hx
  have hb := hmem y .re hy
  have hr := h.respects
  exact h.putRePair hmem hx hy (hr.add (hr.mul ha hc _ _) (hr.mul hb hs _ _) _ _)
    (hr.sub (hr.mul ha hs _ _) (hr.mul hb hc _ _) _ _)

theorem OnCore.htAddSub {w : Work M F64} {w' : Work M' F64} (hmem : e.Agree e' n w.mem w'.mem) {x y : Nat} (hx : x < n)
    (hy : y < n) : e.Agree e' n (htAddSub e x y w).mem (htAddSub e' x y w').mem := by
  rw [htAddSub_eq, htAddSub_eq, h.num]
  have ha := hmem x .re hx
  have hb := hmem y .re hy
  exact h.putRePair hmem hx hy (h.respects.add ha hb _ _) (h.respects.sub ha hb _ _)

omit h in
/-- The entry a rotation of a level reads is one the table has. -/
theorem ladder_entry_lt {level i : Nat} (hi : i < level / 2) (hlevel : level ≤ n) : n / level * i < n / 2 := by
  have hpos : 0 < n / level := Nat.div_pos hlevel (by omega)
  have hle := Nat.div_mul_le_self n level
  have htwo : n / level * (2 * (i + 1)) ≤ n / level * level := Nat.mul_le_mul_left _ (by omega)
  rw [Nat.lt_iff_add_one_le, Nat.le_div_iff_mul_le two_pos]
  calc (n / level * i + 1) * 2 ≤ (n / level * i + n / level) * 2 := by omega
    _ = n / level * (2 * (i + 1)) := by ring
    _ ≤ n := htwo.trans hle

theorem OnCore.ladderGroup {level g : Nat} (hg : g + level ≤ n) {w : Work M F64} {w' : Work M' F64}
    (hw : w.LadderAgree e e' n w') :
    Work.LadderAgree e e' n (Machine.ladderGroup e n level g w) (Machine.ladderGroup e' n level g w') := by
  have hrots := forStride_related (R := Work.LadderAgree e e' n) (stride := 1) (i := 1)
    (body := fun i => ladderRot e n level g i (level / 2 - i))
    (body' := fun i => ladderRot e' n level g i (level / 2 - i))
    (w := ladderGroupEnter level w) (v := ladderGroupEnter level w') ((level / 2 - 1) / 2) hw
    fun t v v' ht hv => ⟨h.htRot hv (by omega) (by omega) (ladder_entry_lt (by omega) (by omega)), hv.2⟩
  have haddSubs := forStride_related (R := Work.LadderAgree e e' n) (stride := 1) (i := 0)
    (body := ladderAddSub e level g) (body' := ladderAddSub e' level g) (level / 2) hrots
    fun t v v' ht hv => ⟨h.htAddSub (w := { v with regs := { v.regs with i := 0 + t * 1 } })
      (w' := { v' with regs := { v'.regs with i := 0 + t * 1 } }) hv.1 (by omega) (by omega), hv.2⟩
  exact haddSubs

theorem OnCore.ladder {w : Work M F64} {w' : Work M' F64} (hw : w.LadderAgree e e' n w') :
    Work.LadderAgree e e' n (Machine.ladder e n w) (Machine.ladder e' n w') :=
  forStride_related (R := Work.LadderAgree e e' n) (stride := 1) (i := 0)
    (body := fun t => ladderLevel e n (2 ^ (t + 1))) (body' := fun t => ladderLevel e' n (2 ^ (t + 1)))
    (w := ladderEnter n w) (v := ladderEnter n w') _ hw fun t v v' _ hv =>
      forStride_related (R := Work.LadderAgree e e' n) (stride := 2 ^ (0 + t * 1 + 1)) (i := 0)
        (body := Machine.ladderGroup e n (2 ^ (0 + t * 1 + 1)))
        (body' := Machine.ladderGroup e' n (2 ^ (0 + t * 1 + 1)))
        (w := levelEnter v) (v := levelEnter v') _ hv
        fun t' _ _ ht' hv => h.ladderGroup (by rw [Nat.zero_add]; exact ladder_group_le ht') hv

theorem OnCore.hartleyNorm {w : Work M F64} {w' : Work M' F64} (hw : e.Agree e' n w.mem w'.mem) :
    e.Agree e' n (hartleyNorm e n w).mem (hartleyNorm e' n w').mem := by
  have hroot : SameValue (normRoot e.num n w).regs.rootN (normRoot e'.num n w').regs.rootN := by
    rw [h.num]
    exact h.respects.fsqrt (.refl _) _ _
  refine (forStride_related (R := fun (w : Work M F64) (w' : Work M' F64) =>
    e.Agree e' n w.mem w'.mem ∧ SameValue w.regs.rootN w'.regs.rootN) (stride := 1) (i := 0)
    (body := normElem e) (body' := normElem e') (w := normRoot e.num n w) (v := normRoot e'.num n w') n ⟨hw, hroot⟩
    fun t v v' ht hv => ⟨fun k l hk => ?_, hv.2⟩).1
  have ht' : 0 + t * 1 < n := by omega
  simp only [normElem, Work.spend_mem, Work.putRe_mem, h.reads.dst_put _ _ _ _ ht' hk, h.reads'.dst_put _ _ _ _ ht' hk]
  split
  · rw [h.num]
    exact h.respects.div (hv.1 _ .re ht') hv.2 _ _
  · exact hv.1 k l hk

theorem OnCore.hartley {m : Nat} (hm : 2 ^ m = n) {w : Work M F64} {w' : Work M' F64}
    (hC : w.regs.htC.length = w'.regs.htC.length) (hS : w.regs.htS.length = w'.regs.htS.length)
    (hin : e.SameInput e' n true w.mem w'.mem) : e.Agree e' n (hartley e n w).mem (hartley e' n w').mem := by
  refine h.hartleyNorm (h.ladder ⟨?_, ?_⟩).1
  · rw [hartleyTable_mem, hartleyTable_mem]
    exact h.copied hm hin
  · rw [h.num]
    exact h.respects.hartleyTable _ (by rw [permute_copyIn_htC, permute_copyIn_htC, hC])
      (by rw [permute_copyIn_htS, permute_copyIn_htS, hS])

/-- ELEMENTWISE with an f that respects values. -/
theorem OnCore.elementwise {f : Nat → F64 → F64 → F64} (cost : Nat)
    (hf : ∀ {re re' im im'}, SameValue re re' → SameValue im im' → ∀ d d', SameValue (f d re im) (f d' re' im'))
    {w : Work M F64} {w' : Work M' F64} (hin : e.SameInput e' n false w.mem w'.mem) :
    e.Agree e' n (forStride 1 (elementwiseElem e f cost) n 0 w).mem
      (forStride 1 (elementwiseElem e' f cost) n 0 w').mem := fun k l hk => by
  obtain ⟨⟨d, hre⟩, him⟩ := dst_elementwise h.reads le_rfl f cost w hk
  obtain ⟨⟨d', hre'⟩, him'⟩ := dst_elementwise h.reads' le_rfl f cost w' hk
  cases l
  · rw [hre, hre']
    exact hf (hin k hk).1 ((hin k hk).2 rfl) d d'
  · rw [him, him', h.num]
    exact .refl _

theorem OnCore.magnitude {w : Work M F64} {w' : Work M' F64} (hin : e.SameInput e' n false w.mem w'.mem) :
    e.Agree e' n (magnitude e n w).mem (magnitude e' n w').mem := by
  have hr := h.respects
  have hproc : Machine.magnitude e' n w' = forStride 1 (elementwiseElem e' (magE e.num) 4) n 0 w' := by
    rw [← h.num]
    rfl
  rw [hproc]
  exact h.elementwise (f := magE e.num) 4
    (fun hre him d d' => hr.fsqrt (hr.add (hr.mul hre hre _ _) (hr.mul him him _ _) _ _) _ _) hin

theorem OnCore.phases {w : Work M F64} {w' : Work M' F64} (hin : e.SameInput e' n false w.mem w'.mem) :
    e.Agree e' n (phases e n w).mem (phases e' n w').mem := by
  have hproc : Machine.phases e' n w' = forStride 1 (elementwiseElem e' (fun _ => phaseE e.num) 0) n 0 w' := by
    rw [← h.num]
    rfl
  rw [hproc]
  exact h.elementwise (f := fun _ => phaseE e.num) 0 (fun hre him _ _ => h.respects.atan2 hre him) hin

end Core

/-! ### The commands -/

theorem SameInput.weaken {M M' : Type} {e : Env M F64} {e' : Env M' F64} {n : Nat} {m : M} {m' : M'}
    (h : ∀ k l, k < n → e.src m k l = e'.src m' k l) (real : Bool) : e.SameInput e' n real m m' :=
  fun k hk => ⟨.inl (h k .re hk), fun _ => .inl (h k .im hk)⟩

theorem OnCore.procedureOf {e e' : Env Memory F64} {n : Nat} (h : OnCore e e' n) {i : Instr}
    (hv : validateLength i n = none) {w w' : Work Memory F64} (hC : w.regs.htC.length = w'.regs.htC.length)
    (hS : w.regs.htS.length = w'.regs.htS.length) (hin : e.SameInput e' n (i == .fht) w.mem w'.mem) :
    e.Agree e' n (procedureOf i e n w).mem (procedureOf i e' n w').mem := by
  have hpow (hi : i.isTransform = true) : ∃ m, 2 ^ m = n := by
    obtain ⟨m, -, -, hm⟩ := exists_pow_of_validateLength hi hv
    exact ⟨m, hm.symm⟩
  cases i with
  | fftFwd => exact h.fftForward (hpow rfl).choose_spec hin
  | fftInv => exact h.fftInverse (hpow rfl).choose_spec hin
  | fht => exact h.hartley (hpow rfl).choose_spec hC hS hin
  | mag => exact h.magnitude hin
  | phase => exact h.phases hin

theorem startEnv_onCore {M' : Type} {e' : Env M' F64} {n : Nat} (s : State) (hn : n ≤ Config.nmax)
    (he' : e'.ReadsStores n) (hnum : e'.num = coreNum) : OnCore s.startEnv e' n where
  reads := (bufferEnv_readsStores _ _ _).mono hn
  reads' := he'
  num := hnum
  respects := respectsSame_num _ _ _

/-- Settles O26: a bare sequence is an environment that reads its stores back, as the buffers are. -/
theorem commandsComputeOnSequences : Obligations.CommandsComputeOnSequences := by
  intro s hb n agrees
  have hcore (hn : n ≤ Config.nmax) : OnCore s.startEnv (sequenceEnv coreNum s.input) n :=
    startEnv_onCore s hn (sequenceEnv_readsStores _ _ _) rfl
  have hin (hn : n ≤ Config.nmax) (real : Bool) :
      s.startEnv.SameInput (sequenceEnv coreNum s.input) n real s.startWork.mem s.input :=
    SameInput.weaken (fun k l hk => (startEnv_src s (hk.trans_le hn) l).trans (by cases l <;> rfl)) real
  have hagrees {i : Instr} {proc : Env (Nat → F64 × F64) F64 → Nat → Work (Nat → F64 × F64) F64 →
      Work (Nat → F64 × F64) F64} (hv : validateLength i n = none)
      (hsame : s.startEnv.Agree (sequenceEnv coreNum s.input) n (procedureOf i s.startEnv n s.startWork).mem
        (resultOf coreNum s.regs proc n s.input)) : agrees i proc :=
    ⟨_, exec_completed hb hv, (doneFrame_completedState i s).status ▸ rfl, fun k hk => ⟨hsame k .re hk, hsame k .im hk⟩⟩
  refine ⟨fun ⟨m, hm, hmax, hpow⟩ => ?_, fun hn => ?_⟩
  · have hn : n ≤ Config.nmax := hpow ▸ Nat.pow_le_pow_right two_pos hmax
    have hv (i : Instr) : validateLength i n = none := hpow ▸ validateLength_two_pow i hm hmax
    exact ⟨hagrees (hv _) ((hcore hn).fftForward hpow.symm (hin hn false)),
      hagrees (hv _) ((hcore hn).fftInverse hpow.symm (hin hn false)),
      hagrees (hv _) ((hcore hn).hartley hpow.symm rfl rfl (hin hn true))⟩
  · exact ⟨hagrees (validateLength_of_le_nmax Bool.false_ne_true hn) ((hcore hn).magnitude (hin hn false)),
      hagrees (validateLength_of_le_nmax Bool.false_ne_true hn) ((hcore hn).phases (hin hn false))⟩

/-- Settles O25: the two cores run the same procedure on inputs that agree, over tables of the same length. -/
theorem commandsDoNotDependOnTheRest : Obligations.CommandsDoNotDependOnTheRest := by
  intro w s s' hinv hinv' hb hb' hlen hsrc
  cases hw : decode w with
  | illegal r =>
    refine ⟨_, _, issue_illegal hw hb, issue_illegal hw hb', rfl, rfl, fun k l hk => ?_⟩
    exact absurd hk (Nat.not_lt_zero k)
  | ok i =>
    have hissue (s : State) : issue w s = exec i s := by simp only [issue, hw]
    rw [hissue, hissue]
    cases hv : validateLength i s.len.toNat with
    | some kind =>
      obtain ⟨t, ht, hframe⟩ := exec_refused hb hv
      obtain ⟨t', ht', hframe'⟩ := exec_refused hb' (hlen ▸ hv)
      refine ⟨t, t', ht, ht', hframe.status.trans hframe'.status.symm, hframe.rlen.trans hframe'.rlen.symm,
        fun k l hk => ?_⟩
      rw [hframe.rlen] at hk
      exact absurd hk (Nat.not_lt_zero k)
    | none =>
      have hframe := doneFrame_completedState i s
      have hframe' := doneFrame_completedState i s'
      have hn : s.len.toNat ≤ Config.nmax := Memory.nmax_eq ▸ le_of_validateLength hv
      have hcore : OnCore s.startEnv s'.startEnv s.len.toNat :=
        startEnv_onCore s hn ((bufferEnv_readsStores _ _ _).mono hn) rfl
      have hin : s.startEnv.SameInput s'.startEnv s.len.toNat (i == .fht) s.startWork.mem s'.startWork.mem := by
        intro k hk
        have hkn := hk.trans_le hn
        rw [startEnv_src s hkn, startEnv_src s' hkn, startEnv_src s hkn, startEnv_src s' hkn]
        obtain ⟨hre, him⟩ := hsrc k hk hkn
        refine ⟨.inl hre, fun hi => .inl (him fun hdec => ?_)⟩
        rw [hw, Decoded.ok.injEq] at hdec
        rw [hdec] at hi
        exact absurd hi (by decide)
      have hagree := hcore.procedureOf hv (hinv.tables.1.trans hinv'.tables.1.symm)
        (hinv.tables.2.trans hinv'.tables.2.symm) hin
      refine ⟨_, _, exec_completed hb hv, exec_completed hb' (hlen ▸ hv), hframe.status.trans hframe'.status.symm,
        hlen, fun k l hk => ?_⟩
      rw [completedState_dst, completedState_dst, ← hlen]
      exact hagree k l hk

end Sys2Proof.Machine
end

section
/-! PROOFS. The transforms on two and on four points (42_fft and 43_hartley, section 3): the operations that reach each
result, read off the procedures over any numbers, and what they give on the core. -/

namespace Sys2Proof.Machine

section SmallLengths

variable {F : Type} (num : Num F) (regs : Regs F) (x : Nat → F × F)

/-! ### The results over any numbers -/

/-- The product of a factor and a pair, from the free value d on (42 R110). -/
def pairProduct (d : Nat) (t b : F × F) : F × F :=
  (num.sub (d + 2) (num.mul d t.1 b.1) (num.mul (d + 1) t.2 b.2),
    num.add (d + 5) (num.mul (d + 3) t.1 b.2) (num.mul (d + 4) t.2 b.1))

/-- The first result of the butterfly that draws from d on: a + t·b. -/
def pairSum (d : Nat) (t a b : F × F) : F × F :=
  (num.add (d + 8) a.1 (pairProduct num d t b).1, num.add (d + 9) a.2 (pairProduct num d t b).2)

/-- The second result of the butterfly that draws from d on: a − t·b. -/
def pairDifference (d : Nat) (t a b : F × F) : F × F :=
  (num.sub (d + 6) a.1 (pairProduct num d t b).1, num.sub (d + 7) a.2 (pairProduct num d t b).2)

/-- The factor TW.INIT starts with. -/
def startFactor : F × F := (num.fromNat 1, num.zero)

theorem fftForward_two :
    resultOf num regs fftForward 2 x 0 = pairSum num 5 (startFactor num) (x 0) (x 1) ∧
    resultOf num regs fftForward 2 x 1 = pairDifference num 5 (startFactor num) (x 0) (x 1) := ⟨rfl, rfl⟩

theorem fftInverse_two :
    resultOf num regs fftInverse 2 x 0 =
      (num.div 23 (pairSum num 5 (startFactor num) (x 0) (x 1)).1 (num.fromNat 2),
        num.div 24 (pairSum num 5 (startFactor num) (x 0) (x 1)).2 (num.fromNat 2)) ∧
    resultOf num regs fftInverse 2 x 1 =
      (num.div 25 (pairDifference num 5 (startFactor num) (x 0) (x 1)).1 (num.fromNat 2),
        num.div 26 (pairDifference num 5 (startFactor num) (x 0) (x 1)).2 (num.fromNat 2)) := ⟨rfl, rfl⟩

theorem hartley_two :
    (resultOf num regs hartley 2 x 0).1 = num.div 6 (num.add 3 (x 0).1 (x 1).1) (num.fsqrt 5 (num.fromNat 2)) ∧
    (resultOf num regs hartley 2 x 1).1 = num.div 7 (num.sub 4 (x 0).1 (x 1).1) (num.fsqrt 5 (num.fromNat 2)) :=
  ⟨rfl, rfl⟩

theorem hartley_four :
    (resultOf num regs hartley 4 x 0).1 =
      num.div 15 (num.add 10 (num.add 6 (x 0).1 (x 2).1) (num.add 8 (x 1).1 (x 3).1)) (num.fsqrt 14 (num.fromNat 4)) ∧
    (resultOf num regs hartley 4 x 1).1 =
      num.div 16 (num.add 12 (num.sub 7 (x 0).1 (x 2).1) (num.sub 9 (x 1).1 (x 3).1)) (num.fsqrt 14 (num.fromNat 4)) ∧
    (resultOf num regs hartley 4 x 2).1 =
      num.div 17 (num.sub 11 (num.add 6 (x 0).1 (x 2).1) (num.add 8 (x 1).1 (x 3).1)) (num.fsqrt 14 (num.fromNat 4)) ∧
    (resultOf num regs hartley 4 x 3).1 =
      num.div 18 (num.sub 13 (num.sub 7 (x 0).1 (x 2).1) (num.sub 9 (x 1).1 (x 3).1)) (num.fsqrt 14 (num.fromNat 4)) :=
  ⟨rfl, rfl, rfl, rfl⟩

/-- The working data of the second stage on four points after its first advance. -/
def quarterWork : Work Unit F :=
  twAdv num { twInit num (twSetup num .forward 2 ⟨(), regs, 33⟩) with draw := 48 }

/-- The factor of the second group of the second stage. -/
def quarterFactor : F × F := ((quarterWork num regs).regs.twRe, (quarterWork num regs).regs.twIm)

/-- The operations of that factor. -/
theorem quarterFactor_eq :
    let delta := num.div 34 (num.mul 33 (num.fromNat 1) (num.neg num.pi)) (num.fromNat 2)
    let sine := num.sin (num.div 35 delta (num.fromNat 2))
    let mulRe := num.neg (num.mul 37 (num.fromNat 2) (num.mul 36 sine sine))
    let mulIm := num.sin delta
    quarterFactor num regs =
      (num.add 51 (num.sub 50 (num.mul 48 mulRe (num.fromNat 1)) (num.mul 49 mulIm num.zero)) (num.fromNat 1),
        num.add 55 (num.add 54 (num.mul 52 mulIm (num.fromNat 1)) (num.mul 53 mulRe num.zero)) num.zero) := rfl

/-- On four points: two butterflies, then two on their results. -/
theorem fftForward_four :
    let evenSum := pairSum num 5 (startFactor num) (x 0) (x 2)
    let evenDifference := pairDifference num 5 (startFactor num) (x 0) (x 2)
    let oddSum := pairSum num 15 (startFactor num) (x 1) (x 3)
    let oddDifference := pairDifference num 15 (startFactor num) (x 1) (x 3)
    resultOf num regs fftForward 4 x 0 = pairSum num 38 (startFactor num) evenSum oddSum ∧
    resultOf num regs fftForward 4 x 1 = pairSum num 56 (quarterFactor num regs) evenDifference oddDifference ∧
    resultOf num regs fftForward 4 x 2 = pairDifference num 38 (startFactor num) evenSum oddSum ∧
    resultOf num regs fftForward 4 x 3 = pairDifference num 56 (quarterFactor num regs) evenDifference oddDifference :=
  ⟨rfl, rfl, rfl, rfl⟩

end SmallLengths

/-! ### On the core -/

open Float64

theorem toNat_of_eq_ofNat {s : State} {n : Nat} (h : s.len = BitVec.ofNat 32 n) (hn : n < 2 ^ 32) :
    s.len.toNat = n := by
  rw [h, BitVec.toNat_ofNat, Nat.mod_eq_of_lt hn]

theorem isZero_mul_of_isZero (d : Nat) {a b : F64} (ha : isFinite a = true) (hb : isFinite b = true)
    (h : isZero a = true ∨ isZero b = true) : isZero (mul d a b) = true := by
  have hprod : significand a * significand b = 0 := by
    rcases h with h | h <;> simp [significand_of_isZero h]
  rw [mul_of_isFinite d ha hb, hprod]
  exact isZero_ofParts_zero _

theorem isZero_neg_of_isZero {a : F64} (h : isZero a = true) : isZero (neg a) = true := (isZero_neg a).trans h

theorem add_sameNumber_left (d : Nat) {a b : F64} (ha : isNaN a = false) (hb : isZero b = true) :
    SameNumber (add d a b) a := by
  refine SameNumber.trans ((SameNumber.refl a).add (.inr ⟨hb, by decide⟩ : SameNumber b zero) d d) ?_
  rw [add_zero_eq d ha]
  split
  next h => exact .inr ⟨by decide, by rw [h]; decide⟩
  next => exact .refl a

theorem sub_sameNumber_left (d : Nat) {a b : F64} (ha : isNaN a = false) (hb : isZero b = true) :
    SameNumber (sub d a b) a := add_sameNumber_left d ha (isZero_neg_of_isZero hb)

/-- The start factor leaves a finite pair as it is, up to the sign of a zero. -/
theorem startFactor_product (d : Nat) {b : F64 × F64} (hre : isFinite b.1 = true) (him : isFinite b.2 = true) :
    SameNumber (pairProduct coreNum d (startFactor coreNum) b).1 b.1 ∧
    SameNumber (pairProduct coreNum d (startFactor coreNum) b).2 b.2 := by
  have hone {a : F64} (ha : isFinite a = true) (k : Nat) : mul k (fromNat 1) a = a :=
    one_mul_eq k (not_isNaN_of_isFinite ha)
  have hzero {a : F64} (ha : isFinite a = true) (k : Nat) : isZero (mul k zero a) = true :=
    isZero_mul_of_isZero k isFinite_zero ha (.inl (by decide))
  constructor
  · change SameNumber (sub (d + 2) (mul d (fromNat 1) b.1) (mul (d + 1) zero b.2)) b.1
    rw [hone hre]
    exact sub_sameNumber_left _ (not_isNaN_of_isFinite hre) (hzero him _)
  · change SameNumber (add (d + 5) (mul (d + 3) (fromNat 1) b.2) (mul (d + 4) zero b.1)) b.2
    rw [hone him]
    exact add_sameNumber_left _ (not_isNaN_of_isFinite him) (hzero hre _)

/-- Settles O31: the operations of `fftForward_two` and `fftInverse_two`, up to the bits of a NaN. -/
theorem fftOnTwoPoints : Obligations.FftOnTwoPoints := by
  intro s hb hlen a b prRe prIm two finite
  have hn : s.len.toNat = 2 := toNat_of_eq_ofNat hlen (by decide)
  have hr := respectsSame_num Config.sinRaw Config.cosRaw Config.atan2Raw
  obtain ⟨⟨t, ht, -, hforward⟩, ⟨u, hu, -, hinverse⟩, -⟩ :=
    (commandsComputeOnSequences s hb).1 ⟨1, le_rfl, by decide, hn⟩
  rw [hn] at hforward hinverse
  have hf0 := hforward 0 (by decide)
  have hf1 := hforward 1 (by decide)
  have hi0 := hinverse 0 (by decide)
  have hi1 := hinverse 1 (by decide)
  rw [(fftForward_two coreNum s.regs s.input).1] at hf0
  rw [(fftForward_two coreNum s.regs s.input).2] at hf1
  rw [(fftInverse_two coreNum s.regs s.input).1] at hi0
  rw [(fftInverse_two coreNum s.regs s.input).2] at hi1
  have hre : SameValue (pairProduct coreNum 5 (startFactor coreNum) b).1 prRe :=
    ((SameValue.refl _).mul (.refl _) _ _).sub ((SameValue.refl _).mul (.refl _) _ _) _ _
  have him : SameValue (pairProduct coreNum 5 (startFactor coreNum) b).2 prIm :=
    ((SameValue.refl _).mul (.refl _) _ _).add ((SameValue.refl _).mul (.refl _) _ _) _ _
  refine ⟨t, u, ht, hu, hf0.1.trans ((SameValue.refl _).add hre _ _), hf0.2.trans ((SameValue.refl _).add him _ _),
    hf1.1.trans ((SameValue.refl _).sub hre _ _), hf1.2.trans ((SameValue.refl _).sub him _ _), fun k l hk => ?_,
    fun hfin => ?_⟩
  · have hk' : k = 0 ∨ k = 1 := by omega
    rcases hk' with rfl | rfl <;> cases l
    · exact hi0.1.trans (hf0.1.symm.div (.refl _) _ _)
    · exact hi0.2.trans (hf0.2.symm.div (.refl _) _ _)
    · exact hi1.1.trans (hf1.1.symm.div (.refl _) _ _)
    · exact hi1.2.trans (hf1.2.symm.div (.refl _) _ _)
  · obtain ⟨hb1, hb2⟩ : isFinite b.1 = true ∧ isFinite b.2 = true := by
      simp only [finite, List.all_cons, Bool.and_eq_true] at hfin
      exact ⟨hfin.2.2.1, hfin.2.2.2.1⟩
    obtain ⟨hp1, hp2⟩ := startFactor_product 5 hb1 hb2
    exact ⟨SameNumber.trans (.inl hf0.1) ((SameNumber.refl _).add hp1 _ _),
      SameNumber.trans (.inl hf0.2) ((SameNumber.refl _).add hp2 _ _),
      SameNumber.trans (.inl hf1.1) ((SameNumber.refl _).sub hp1 _ _),
      SameNumber.trans (.inl hf1.2) ((SameNumber.refl _).sub hp2 _ _)⟩

theorem sqrt_two (d : Nat) : Float64.sqrt d (fromNat 2) = 0x3FF6A09E667F3BCD#64 :=
  ((nonNegative_fromNat 2).sqrt_draw d 0).trans (by decide +kernel)

theorem sqrt_four (d : Nat) : Float64.sqrt d (fromNat 4) = fromNat 2 :=
  ((nonNegative_fromNat 4).sqrt_draw d 0).trans (by decide +kernel)

/-- Settles O32: the operations of `hartley_two` and `hartley_four`, up to the bits of a NaN. -/
theorem fhtOnSmallLengths : Obligations.FhtOnSmallLengths := by
  intro s hb x add sub
  have hadd {a a' b b' : F64} (ha : SameValue a a') (hb : SameValue b b') (d : Nat) :
      SameValue (Float64.add d a b) (add a' b') := ha.add hb d 0
  have hsub {a a' b b' : F64} (ha : SameValue a a') (hb : SameValue b b') (d : Nat) :
      SameValue (Float64.sub d a b) (sub a' b') := ha.sub hb d 0
  have hx (k : Nat) : SameValue (s.input k).1 (x k) := .refl _
  refine ⟨fun hlen => ?_, fun hlen => ?_⟩
  · have hn : s.len.toNat = 2 := toNat_of_eq_ofNat hlen (by decide)
    obtain ⟨-, -, t, ht, -, hresult⟩ := (commandsComputeOnSequences s hb).1 ⟨1, le_rfl, by decide, hn⟩
    rw [hn] at hresult
    obtain ⟨h0, h1⟩ := hartley_two coreNum s.regs s.input
    have hdiv {a a' : F64} (ha : SameValue a a') (d : Nat) :
        SameValue (Float64.div d a (Float64.sqrt 5 (fromNat 2))) (Float64.div 0 a' 0x3FF6A09E667F3BCD#64) :=
      ha.div (.inl (sqrt_two 5)) d 0
    refine ⟨t, ht, sqrt_two 0, ?_, ?_⟩
    · exact (h0 ▸ (hresult 0 (by decide)).1).trans (hdiv (hadd (hx 0) (hx 1) 3) 6)
    · exact (h1 ▸ (hresult 1 (by decide)).1).trans (hdiv (hsub (hx 0) (hx 1) 4) 7)
  · have hn : s.len.toNat = 4 := toNat_of_eq_ofNat hlen (by decide)
    obtain ⟨-, -, t, ht, -, hresult⟩ := (commandsComputeOnSequences s hb).1 ⟨2, by decide, by decide, hn⟩
    rw [hn] at hresult
    obtain ⟨h0, h1, h2, h3⟩ := hartley_four coreNum s.regs s.input
    have hdiv {a a' : F64} (ha : SameValue a a') (d : Nat) :
        SameValue (Float64.div d a (Float64.sqrt 14 (fromNat 4))) (Float64.div 0 a' (fromNat 2)) :=
      ha.div (.inl (sqrt_four 14)) d 0
    have heven := hadd (hx 0) (hx 2) 6
    have hodd := hadd (hx 1) (hx 3) 8
    have heven' := hsub (hx 0) (hx 2) 7
    have hodd' := hsub (hx 1) (hx 3) 9
    refine ⟨t, ht, ?_, ?_, ?_, ?_⟩
    · exact (h0 ▸ (hresult 0 (by decide)).1).trans (hdiv (hadd heven hodd 10) 15)
    · exact (h1 ▸ (hresult 1 (by decide)).1).trans (hdiv (hadd heven' hodd' 12) 16)
    · exact (h2 ▸ (hresult 2 (by decide)).1).trans (hdiv (hsub heven hodd 11) 17)
    · exact (h3 ▸ (hresult 3 (by decide)).1).trans (hdiv (hsub heven' hodd' 13) 18)

/-! ### Four constant points -/

/-- A finite word with a value of magnitude at most B. -/
def WithinBound (B : ℝ) (a : F64) : Prop := isFinite a = true ∧ |value a| ≤ B

theorem overflowBound_gt : (2 : ℝ) ^ 12 < overflowBound := by
  have hpow : (2 : ℝ) ^ 12 ≤ 2 ^ 970 := pow_le_pow_right₀ one_le_two (by norm_num)
  have hsplit : (2 : ℝ) ^ 1024 = 2 ^ 54 * 2 ^ 970 := by rw [← pow_add]
  rw [overflowBound, hsplit]
  generalize (2 : ℝ) ^ 970 = P at hpow
  norm_num at hpow ⊢
  linarith

/-- Rounding at most doubles the bound: 0 is a value too. -/
theorem WithinBound.of_isRounding {B x : ℝ} {r : F64} (hr : IsRounding x r) (hx : |x| ≤ B) (hB : B ≤ 2 ^ 10) :
    WithinBound (2 * B) r := by
  have hover : ¬ overflowBound ≤ |x| := by
    have hbound := overflowBound_gt
    norm_num at hB hbound
    linarith
  rw [IsRounding, if_neg hover] at hr
  refine ⟨hr.1, ?_⟩
  have hnear := (hr.2 zero isFinite_zero).1
  have hval : value zero = 0 := by simp [value, signedSignificand_of_isZero (show isZero zero = true by decide)]
  rw [hval, zero_sub, abs_neg] at hnear
  calc |value r| = |(value r - x) + x| := by rw [sub_add_cancel]
    _ ≤ |value r - x| + |x| := abs_add_le _ _
    _ ≤ 2 * B := by linarith

namespace WithinBound

variable {A B : ℝ} {a b : F64} (ha : WithinBound A a) (hb : WithinBound B b) (d : Nat)
include ha

theorem weaken (h : A ≤ B) : WithinBound B a := ⟨ha.1, ha.2.trans h⟩

theorem neg : WithinBound A (neg a) := ⟨(isFinite_neg a).trans ha.1, by rw [value_neg, abs_neg]; exact ha.2⟩

include hb

theorem mul (h : A * B ≤ 2 ^ 10) : WithinBound (2 * (A * B)) (mul d a b) :=
  of_isRounding (isRounding_mul d ha.1 hb.1)
    (by rw [abs_mul]; exact mul_le_mul ha.2 hb.2 (abs_nonneg _) ((abs_nonneg _).trans ha.2)) h

theorem add (h : A + B ≤ 2 ^ 10) : WithinBound (2 * (A + B)) (add d a b) :=
  of_isRounding (isRounding_add d ha.1 hb.1) ((abs_add_le _ _).trans (add_le_add ha.2 hb.2)) h

theorem sub (h : A + B ≤ 2 ^ 10) : WithinBound (2 * (A + B)) (sub d a b) := ha.add hb.neg d h

end WithinBound

section Constant

variable (sinRaw cosRaw : F64 → F64) (atan2Raw : F64 → F64 → F64)

/-- SIN of an argument that is not a NaN has the bounds of the values the configuration gives. -/
theorem withinBound_sin (hsin : ∀ a, WithinBound 1 (sinRaw a)) {a : F64} (ha : isNaN a = false) :
    WithinBound 1 (sin sinRaw a) := by
  have habs : isNaN (abs a) = false := by rw [isNaN, Float64.abs, mag_ofParts _ (mag_lt a)]; exact ha
  have hinner : WithinBound 1 (sinOfAbs sinRaw (abs a)) := by
    rw [sinOfAbs, habs, if_neg Bool.false_ne_true]
    split
    · refine ⟨isFinite_zero, ?_⟩
      simp [value, signedSignificand_of_isZero (show isZero zero = true by decide)]
    · exact hsin _
  rw [sin]
  cases sign a
  · exact hinner
  · exact hinner.neg

/-- The factor of the second group on four points is finite. -/
theorem quarterFactor_isFinite (regs : Regs F64) (hsin : ∀ a, WithinBound 1 (sinRaw a)) :
    isFinite (quarterFactor (Float64.num sinRaw cosRaw atan2Raw) regs).1 = true ∧
    isFinite (quarterFactor (Float64.num sinRaw cosRaw atan2Raw) regs).2 = true := by
  have hone : WithinBound 1 (fromNat 1) := ⟨isFinite_fromNat_two_pow (j := 0) (by decide), by
    rw [fromNat_one_eq, value_fromNat_two_pow (j := 0) (by decide)]; norm_num⟩
  have htwo : WithinBound 2 (fromNat 2) := ⟨isFinite_fromNat_two_pow (j := 1) (by decide), by
    rw [fromNat_two_eq, value_fromNat_two_pow (j := 1) (by decide)]; norm_num⟩
  have hzero : WithinBound 1 zero := ⟨isFinite_zero, by
    simp [value, signedSignificand_of_isZero (show isZero zero = true by decide)]⟩
  have hIm : WithinBound 1 (sin sinRaw (div 34 (mul 33 (fromNat 1) (Float64.neg pi)) (fromNat 2))) :=
    withinBound_sin sinRaw hsin (by decide +kernel)
  have hsine : WithinBound 1
      (sin sinRaw (div 35 (div 34 (mul 33 (fromNat 1) (Float64.neg pi)) (fromNat 2)) (fromNat 2))) :=
    withinBound_sin sinRaw hsin (by decide +kernel)
  have hRe := (htwo.mul (hsine.mul hsine 36 (by norm_num)) 37 (by norm_num)).neg
  have hre := ((hRe.mul hone 48 (by norm_num)).sub (hIm.mul hzero 49 (by norm_num)) 50 (by norm_num)).add hone 51
    (by norm_num)
  have him := ((hIm.mul hone 52 (by norm_num)).add (hRe.mul hzero 53 (by norm_num)) 54 (by norm_num)).add hzero 55
    (by norm_num)
  rw [quarterFactor_eq]
  simp only [Float64.num]
  exact ⟨hre.1, him.1⟩

theorem add_zero_of_isZero (d : Nat) {z : F64} (h : isZero z = true) : add d zero z = zero := by
  rcases eq_zero_or_eq_neg_zero h with rfl | rfl <;>
    exact (add_of_isFinite d (by decide) (by decide)).trans (by decide)

theorem isZero_add (d : Nat) {a b : F64} (ha : isZero a = true) (hb : isZero b = true) : isZero (add d a b) = true := by
  rw [(add_sameNumber_left d (not_isNaN_of_isZero ha) hb).isZero_eq]
  exact ha

/-- A butterfly with a finite factor on zeros. -/
theorem butterfly_zero (d : Nat) {t : F64 × F64} (hre : isFinite t.1 = true) (him : isFinite t.2 = true) :
    pairSum (Float64.num sinRaw cosRaw atan2Raw) d t (zero, zero) (zero, zero) = (zero, zero) ∧
    pairDifference (Float64.num sinRaw cosRaw atan2Raw) d t (zero, zero) (zero, zero) = (zero, zero) := by
  have hmul {a : F64} (ha : isFinite a = true) (k : Nat) : isZero (mul k a zero) = true :=
    isZero_mul_of_isZero k ha isFinite_zero (.inr (by decide))
  have hprodRe : isZero (sub (d + 2) (mul d t.1 zero) (mul (d + 1) t.2 zero)) = true :=
    isZero_add _ (hmul hre _) (isZero_neg_of_isZero (hmul him _))
  have hprodIm : isZero (add (d + 5) (mul (d + 3) t.1 zero) (mul (d + 4) t.2 zero)) = true :=
    isZero_add _ (hmul hre _) (hmul him _)
  exact ⟨Prod.ext (add_zero_of_isZero _ hprodRe) (add_zero_of_isZero _ hprodIm),
    Prod.ext (add_zero_of_isZero _ (isZero_neg_of_isZero hprodRe))
      (add_zero_of_isZero _ (isZero_neg_of_isZero hprodIm))⟩

/-- A butterfly with the start factor on two equal real pairs doubles the one and cancels the other. -/
theorem butterfly_equal (d : Nat) {c c' : F64} (hc : isFinite c = true) (hsub : ∀ d, sub d c zero = c)
    (hmul : ∀ d, mul d zero c = zero) (hadd : ∀ d, add d c c = c') :
    pairSum (Float64.num sinRaw cosRaw atan2Raw) d (startFactor (Float64.num sinRaw cosRaw atan2Raw)) (c, zero)
      (c, zero) = (c', zero) ∧
    pairDifference (Float64.num sinRaw cosRaw atan2Raw) d (startFactor (Float64.num sinRaw cosRaw atan2Raw)) (c, zero)
      (c, zero) = (zero, zero) := by
  have hzero : mul (d + 1) zero zero = zero := (mul_of_isFinite _ isFinite_zero isFinite_zero).trans (by decide)
  have hproduct : pairProduct (Float64.num sinRaw cosRaw atan2Raw) d
      (startFactor (Float64.num sinRaw cosRaw atan2Raw)) (c, zero) = (c, zero) := by
    refine Prod.ext ?_ ?_
    · change sub (d + 2) (mul d (fromNat 1) c) (mul (d + 1) zero zero) = c
      rw [one_mul_eq d (not_isNaN_of_isFinite hc), hzero, hsub]
    · change add (d + 5) (mul (d + 3) (fromNat 1) zero) (mul (d + 4) zero c) = zero
      rw [one_mul_eq _ (by decide), hmul, add_zero_of_isZero _ (by decide)]
  rw [pairSum, pairDifference, hproduct]
  simp only [Float64.num]
  rw [hadd, add_zero_of_isZero _ (by decide), sub_self_eq _ hc, sub_self_eq _ isFinite_zero]
  exact ⟨rfl, rfl⟩

end Constant

/-- Settles O33: the first stage leaves (2, 0) and zeros, and a finite factor leaves zeros zero. -/
theorem constantFourPointsTransformExactly : Obligations.ConstantFourPointsTransformExactly := by
  intro sinRaw cosRaw atan2Raw regs hsin r
  have hone (d : Nat) := butterfly_equal sinRaw cosRaw atan2Raw d (c := fromNat 1) (c' := fromNat 2) (by decide +kernel)
    (fun d => (add_of_isFinite d (by decide +kernel) (by decide +kernel)).trans (by decide +kernel))
    (fun d => (mul_of_isFinite d (by decide +kernel) (by decide +kernel)).trans (by decide +kernel))
    (fun d => (add_of_isFinite d (by decide +kernel) (by decide +kernel)).trans (by decide +kernel))
  have htwo (d : Nat) := butterfly_equal sinRaw cosRaw atan2Raw d (c := fromNat 2) (c' := fromNat 4) (by decide +kernel)
    (fun d => (add_of_isFinite d (by decide +kernel) (by decide +kernel)).trans (by decide +kernel))
    (fun d => (mul_of_isFinite d (by decide +kernel) (by decide +kernel)).trans (by decide +kernel))
    (fun d => (add_of_isFinite d (by decide +kernel) (by decide +kernel)).trans (by decide +kernel))
  obtain ⟨hre, him⟩ := quarterFactor_isFinite sinRaw cosRaw atan2Raw regs hsin
  have hquarter := butterfly_zero sinRaw cosRaw atan2Raw 56 hre him
  obtain ⟨h0, h1, h2, h3⟩ := fftForward_four (Float64.num sinRaw cosRaw atan2Raw) regs fun _ => (fromNat 1, zero)
  simp only [(hone 5).1, (hone 5).2, (hone 15).1, (hone 15).2, (htwo 38).1, (htwo 38).2, hquarter.1, hquarter.2]
    at h0 h1 h2 h3
  exact ⟨h0, h1, h2, h3⟩

end Sys2Proof.Machine
end

section
/-! PROOFS. The micro-operations of the stages: the set-up and the advance of the twiddle factor (41_twiddle), the lanes
a stage writes (42_fft R111), and the two scalings (42_fft R113, 43_hartley R135). -/

namespace Sys2Proof.Machine

open Float64

/-! ### TW.INIT and TW.ADV (41_twiddle) -/

/-- Settles O40: the operations as they stand, up to the bits of a NaN. -/
theorem twiddleAdvance : Obligations.TwiddleAdvance := by
  intro w r a u
  have hmul (d : Nat) (x y : F64) : SameValue (mul d x y) (mul 0 x y) := mul_sameValue d 0 x y
  refine ⟨show fromNat 1 = _ by decide +kernel, show zero = _ by decide, rfl, rfl, ?re, ?im, rfl, rfl⟩
  case re => exact ((hmul _ _ _).sub (hmul _ _ _) _ _).add (.refl _) _ _
  case im => exact ((hmul _ _ _).add (hmul _ _ _) _ _).add (.refl _) _ _

/-! ### TW.SETUP (41_twiddle) -/

theorem value_pi : value pi = 7074237752028440 / 2 ^ 51 := by
  have hsig : signedSignificand pi = 7074237752028440 := by decide +kernel
  have hscale : scale pi = 1023 := by decide +kernel
  rw [value, hsig, hscale, show ((1023 : Nat) : ℤ) - 1074 = -51 by norm_num, zpow_neg, div_eq_mul_inv]
  norm_cast

theorem isFinite_pi : isFinite pi = true := by decide +kernel

/-- The base angle is −PI or PI, both of the size of pi. -/
theorem abs_value_baseAngle (d : Nat) (dir : Direction) :
    isFinite (baseAngle coreNum d dir) = true ∧ |value (baseAngle coreNum d dir)| = value pi := by
  have hpos : 0 ≤ value pi := by rw [value_pi]; positivity
  cases dir
  · rw [coreNum, baseAngle_forward, value_neg, abs_neg, abs_of_nonneg hpos, isFinite_neg]
    exact ⟨isFinite_pi, rfl⟩
  · rw [coreNum, baseAngle_inverse, abs_of_nonneg hpos]
    exact ⟨isFinite_pi, rfl⟩

/-- A finite word lies below the overflow bound. -/
theorem abs_value_lt_overflowBound {a : F64} (ha : isFinite a = true) : |value a| < overflowBound := by
  by_contra hover
  have hself := isRounding_self ha
  rw [IsRounding, if_pos (not_lt.1 hover), not_isInf_of_isFinite ha] at hself
  exact Bool.false_ne_true hself.1

theorem isFinite_of_isRounding {x : ℝ} {r : F64} (hr : IsRounding x r) (hx : |x| < overflowBound) :
    isFinite r = true := by
  rw [IsRounding, if_neg (not_le.2 hx)] at hr
  exact hr.1

theorem isFinite_div_two_pow (d : Nat) {a : F64} {j : Nat} (ha : isFinite a = true) (hj : j ≤ 1023) :
    isFinite (div d a (fromNat (2 ^ j))) = true := by
  refine isFinite_of_isRounding (isRounding_div_two_pow d ha hj) ((abs_div _ _).trans_le ?_ |>.trans_lt
    (abs_value_lt_overflowBound ha))
  rw [abs_of_pos (by positivity : (0 : ℝ) < 2 ^ j)]
  exact div_le_self (abs_nonneg _) (one_le_pow₀ one_le_two)

/-- Settles O39: dividing by a power of two is exact here, since PI over NMAX is far from subnormal. -/
theorem stageSetup : Obligations.StageSetup := by
  intro dir t w ht s u two
  have ht' : t < 10 := ht
  obtain ⟨hfin, habs⟩ := abs_value_baseAngle w.draw dir
  have hpow : (2 : ℝ) ^ t ≤ 2 ^ 10 := pow_le_pow_right₀ one_le_two ht'.le
  have hlarge : (2 : ℝ) ^ (-10 : ℤ) ≤ |value (baseAngle coreNum w.draw dir) / 2 ^ t| := by
    rw [abs_div, habs, abs_of_pos (by positivity : (0 : ℝ) < 2 ^ t), le_div_iff₀ (by positivity), value_pi]
    calc (2 : ℝ) ^ (-10 : ℤ) * 2 ^ t ≤ 2 ^ (-10 : ℤ) * 2 ^ 10 := by gcongr
      _ ≤ 7074237752028440 / 2 ^ 51 := by norm_num
  have hsmall (j : ℤ) (hj : j ≤ -10) : (2 : ℝ) ^ j ≤ 2 ^ (-10 : ℤ) := zpow_le_zpow_right₀ one_le_two hj
  have hdelta : value u.regs.delta = value (baseAngle coreNum w.draw dir) / 2 ^ t :=
    value_div_two_pow (w.draw + 1) hfin (by omega) ((hsmall _ (by norm_num)).trans hlarge)
  have hdeltaFin : isFinite u.regs.delta = true := isFinite_div_two_pow (w.draw + 1) hfin (by omega)
  have hhalf : 2 * value (div 0 u.regs.delta two) = value u.regs.delta := by
    rw [value_half 0 hdeltaFin (by rw [hdelta]; exact (hsmall _ (by norm_num)).trans hlarge)]
    ring
  have hdraw : div (w.draw + 2) u.regs.delta two = div 0 u.regs.delta two := by
    rw [show two = fromNat (2 ^ 1) from rfl, div_fromNat_two_pow _ hdeltaFin (by decide),
      div_fromNat_two_pow _ hdeltaFin (by decide)]
  refine ⟨?piD, hdeltaFin, ?scaled, congrArg coreNum.sin hdraw, hhalf, ?mulRe, rfl, rfl, rfl⟩
  case piD =>
    cases dir
    · exact baseAngle_forward Config.sinRaw Config.cosRaw Config.atan2Raw w.draw
    · exact baseAngle_inverse Config.sinRaw Config.cosRaw Config.atan2Raw w.draw
  case scaled =>
    rw [hdelta, Nat.cast_pow, Nat.cast_ofNat]
    exact div_mul_cancel₀ _ (by positivity)
  case mulRe => exact ((SameValue.refl _).mul (mul_sameValue _ 0 _ _) _ _).neg

/-! ### The lanes a stage writes (42_fft R111) -/

/-- The log of a loop is that of its iterations in order. -/
theorem writeLog_forStride {F : Type} {stride : Nat}
    {body : Nat → Work (List (Nat × Lane)) F → Work (List (Nat × Lane)) F} {f : Nat → List (Nat × Lane)}
    (hbody : ∀ i w, (body i w).mem = w.mem ++ f i) (count i : Nat) (w : Work (List (Nat × Lane)) F) :
    (forStride stride body count i w).mem = w.mem ++ (List.range count).flatMap fun t => f (i + t * stride) := by
  induction count with
  | zero => simp
  | succ count ih => rw [forStride_last, hbody, ih, List.range_succ, List.flatMap_append, List.append_assoc]; simp

/-- The lanes of BFLY(p, q), in the order it writes them. -/
def bflyLanes (p q : Nat) : List (Nat × Lane) := [(q, .re), (q, .im), (p, .re), (p, .im)]

theorem stagePair_log {F : Type} (num : Num F) (st p : Nat) (w : Work (List (Nat × Lane)) F) :
    (stagePair (writeLog num) st p w).mem = w.mem ++ bflyLanes p (p + st) := by
  simp [stagePair, bfly_eq, writeLog, bflyLanes]

/-- The lanes of group g of a stage. -/
def groupLanes (n st g : Nat) : List (Nat × Lane) :=
  (List.range (n / (2 * st))).flatMap fun t => bflyLanes (g + t * (2 * st)) (g + t * (2 * st) + st)

theorem stage_log {F : Type} (num : Num F) (dir : Direction) (n st : Nat) (w : Work (List (Nat × Lane)) F) :
    (stage (writeLog num) dir n st w).mem = w.mem ++ (List.range st).flatMap (groupLanes n st) := by
  have hgroup (g : Nat) (v : Work (List (Nat × Lane)) F) :
      (stageGroup (writeLog num) n st g v).mem = v.mem ++ groupLanes n st g :=
    writeLog_forStride (stagePair_log num st) _ g (stageGroupEnter g v)
  have hloop := writeLog_forStride (stride := 1) hgroup st 0 (twInit num (twSetup num dir st w))
  simp only [Nat.zero_add, Nat.mul_one] at hloop
  exact hloop

theorem length_groupLanes (n st g : Nat) : (groupLanes n st g).length = n / (2 * st) * 4 := by
  simp [groupLanes, bflyLanes]

/-- Every element is one of the two of a pair. -/
theorem mem_stage_lanes {n st k : Nat} (hst : 0 < st) (hdvd : 2 * st ∣ n) (hk : k < n) (l : Lane) :
    (k, l) ∈ (List.range st).flatMap (groupLanes n st) := by
  have hcount : k / (2 * st) < n / (2 * st) := Nat.div_lt_div_of_lt_of_dvd hdvd hk
  have hsplit := Nat.div_add_mod k (2 * st)
  have hmod := Nat.mod_lt k (show 2 * st > 0 by omega)
  rw [Nat.mul_comm] at hsplit
  simp only [groupLanes, List.mem_flatMap, List.mem_range, bflyLanes]
  by_cases hlow : k % (2 * st) < st
  · refine ⟨k % (2 * st), hlow, k / (2 * st), hcount, ?_⟩
    rw [show k % (2 * st) + k / (2 * st) * (2 * st) = k by omega]
    cases l <;> simp
  · refine ⟨k % (2 * st) - st, by omega, k / (2 * st), hcount, ?_⟩
    rw [show k % (2 * st) - st + k / (2 * st) * (2 * st) + st = k by omega]
    cases l <;> simp

/-- Settles O41: the stage writes as many lanes as there are, and every lane. -/
theorem stageWritesEveryLaneOnce : Obligations.StageWritesEveryLaneOnce := by
  intro num dir m t regs d ht
  have hdvd : 2 * 2 ^ t ∣ 2 ^ m := by
    rw [← pow_succ']
    exact Nat.pow_dvd_pow 2 ht
  rw [stage_log, List.nil_append]
  have hnodup : ((List.range (2 ^ m)).flatMap fun k => [(k, Lane.re), (k, Lane.im)]).Nodup := by
    refine List.nodup_flatMap.2 ⟨fun k _ => by simp, List.nodup_range.imp fun {k k'} hne => ?_⟩
    simp [List.Disjoint, Function.onFun, hne]
  have hsubset : ((List.range (2 ^ m)).flatMap fun k => [(k, Lane.re), (k, Lane.im)]) ⊆
      (List.range (2 ^ t)).flatMap (groupLanes (2 ^ m) (2 ^ t)) := by
    rintro ⟨k, l⟩ hmem
    obtain ⟨k', hk', hin⟩ := List.mem_flatMap.1 hmem
    obtain rfl : k = k' := by
      simp only [List.mem_cons, Prod.mk.injEq, List.not_mem_nil, or_false] at hin
      exact hin.elim And.left And.left
    exact mem_stage_lanes (Nat.two_pow_pos t) hdvd (List.mem_range.1 hk') l
  refine ((List.subperm_of_subset hnodup hsubset).perm_of_length_le ?_).symm
  have hcount : 2 ^ t * (2 ^ m / (2 * 2 ^ t) * 4) = 2 ^ m * 2 := by
    have := Nat.div_mul_cancel hdvd
    calc 2 ^ t * (2 ^ m / (2 * 2 ^ t) * 4) = 2 ^ m / (2 * 2 ^ t) * (2 * 2 ^ t) * 2 := by ring
      _ = 2 ^ m * 2 := by rw [this]
  simp [length_groupLanes, hcount]

/-! ### SCALE.N and HT.NORM (42_fft R113, 43_hartley R135) -/

/-- A loop over the elements that changes at k only element k: each lane comes to stand in R to what it was. -/
theorem dst_forStride_elements {M F : Type} {e : Env M F} {n : Nat} {body : Nat → Work M F → Work M F}
    {R : Lane → F → F → Prop} {Q : Work M F → Prop}
    (hbody : ∀ k w, k < n → Q w → Q (body k w) ∧ ∀ k' l, k' < n →
      if k' = k then R l (e.dst w.mem k l) (e.dst (body k w).mem k l)
      else e.dst (body k w).mem k' l = e.dst w.mem k' l)
    {w : Work M F} (hw : Q w) :
    Q (forStride 1 body n 0 w) ∧ ∀ k l, k < n → R l (e.dst w.mem k l) (e.dst (forStride 1 body n 0 w).mem k l) := by
  have hloop := forStride_induction (body := body) (stride := 1) (i := 0) (w := w)
    (P := fun t (v : Work M F) => Q v ∧ ∀ k l, k < n →
      if k < t then R l (e.dst w.mem k l) (e.dst v.mem k l) else e.dst v.mem k l = e.dst w.mem k l) n
    ⟨hw, fun k _ _ => by rw [if_neg (Nat.not_lt_zero k)]⟩ fun t v ht ⟨hv, ih⟩ => ?_
  · exact ⟨hloop.1, fun k l hk => by simpa only [if_pos hk] using hloop.2 k l hk⟩
  rw [Nat.zero_add, Nat.mul_one]
  obtain ⟨hv', hstep⟩ := hbody t v ht hv
  refine ⟨hv', fun k l hk => ?_⟩
  have hstep := hstep k l hk
  have ih := ih k l hk
  by_cases heq : k = t
  · subst heq
    rw [if_neg (lt_irrefl k)] at ih
    rw [if_pos rfl, ih] at hstep
    rwa [if_pos (Nat.lt_succ_self k)]
  · rw [if_neg heq] at hstep
    rw [hstep]
    by_cases hlt : k < t
    · rw [if_pos hlt] at ih
      rwa [if_pos (by omega)]
    · rw [if_neg hlt] at ih
      rwa [if_neg (by omega)]

theorem scaleElem_mem {M F : Type} (e : Env M F) (n k : Nat) (w : Work M F) :
    (scaleElem e n k w).mem = (w.put e k (e.num.div w.draw (e.dst w.mem k .re) (e.num.fromNat n))
      (e.num.div (w.draw + 1) (e.dst w.mem k .im) (e.num.fromNat n))).mem := rfl

theorem normElem_mem {M F : Type} (e : Env M F) (k : Nat) (w : Work M F) :
    (normElem e k w).mem = e.put w.mem k .re (e.num.div w.draw (e.dst w.mem k .re) w.regs.rootN) := rfl

section Scaling

variable {M F : Type} {e : Env M F} {b n : Nat} (he : e.ReadsStores b) (hn : n ≤ b)
include he hn

theorem dst_scaleN (w : Work M F) {k : Nat} (hk : k < n) (l : Lane) :
    ∃ d, e.dst (scaleN e n w).mem k l = e.num.div d (e.dst w.mem k l) (e.num.fromNat n) := by
  refine (dst_forStride_elements (Q := fun _ => True) (body := scaleElem e n)
    (R := fun _ x y => ∃ d, y = e.num.div d x (e.num.fromNat n)) (fun k v hk _ => ⟨trivial, fun k' l hk' => ?_⟩)
    (w := w) trivial).2 k l hk
  rw [scaleElem_mem, dst_put_pair he (hk.trans_le hn) (hk'.trans_le hn),
    dst_put_pair he (hk.trans_le hn) (hk.trans_le hn)]
  split
  · rw [if_pos rfl]
    cases l
    · exact ⟨_, rfl⟩
    · exact ⟨_, rfl⟩
  · rfl

theorem dst_hartleyNorm (w : Work M F) {k : Nat} (hk : k < n) :
    (∃ d, e.dst (hartleyNorm e n w).mem k .re =
      e.num.div d (e.dst w.mem k .re) (e.num.fsqrt w.draw (e.num.fromNat n))) ∧
    e.dst (hartleyNorm e n w).mem k .im = e.dst w.mem k .im := by
  have hloop := (dst_forStride_elements (e := e) (n := n) (body := normElem e)
    (Q := fun v => v.regs.rootN = e.num.fsqrt w.draw (e.num.fromNat n))
    (R := fun l x y => match l with
      | .re => ∃ d, y = e.num.div d x (e.num.fsqrt w.draw (e.num.fromNat n))
      | .im => y = x) (fun k v hk hv => ⟨hv, fun k' l hk' => ?_⟩) (w := normRoot e.num n w) rfl).2 k
  · exact ⟨hloop .re hk, hloop .im hk⟩
  rw [normElem_mem, he.dst_put _ _ _ _ (hk.trans_le hn) (hk'.trans_le hn),
    he.dst_put _ _ _ _ (hk.trans_le hn) (hk.trans_le hn)]
  by_cases heq : k' = k
  · rw [if_pos heq]
    cases l
    · exact ⟨_, by rw [if_pos ⟨rfl, rfl⟩, hv]⟩
    · rw [if_neg (by simp)]
  · rw [if_neg heq, if_neg (fun h => heq h.1)]

end Scaling

/-- A loop whose iterations change bytes of the given lanes alone. -/
theorem forStride_sameOutsideLanes {ks : List Nat} {ls : List Lane} {count : Nat}
    {body : Nat → Work Memory F64 → Work Memory F64}
    (h : ∀ k (v : Work Memory F64), k < count → v.mem.sameOutsideLanes ks ls (body k v).mem) (w : Work Memory F64) :
    w.mem.sameOutsideLanes ks ls (forStride 1 body count 0 w).mem :=
  forStride_induction (P := fun _ (v : Work Memory F64) => w.mem.sameOutsideLanes ks ls v.mem) count (fun _ _ => rfl)
    fun t v ht hv => Memory.sameOutsideLanes.trans hv (h (0 + t * 1) v (by omega))

/-- Dividing by a power of two is multiplying by its inverse, on every value. -/
theorem div_two_pow_sameValue_mul_inv (d d' d'' : Nat) (a : F64) {j : Nat} (hj : j ≤ 1023) :
    SameValue (div d a (fromNat (2 ^ j))) (mul d' a (div d'' (fromNat 1) (fromNat (2 ^ j)))) := by
  cases hnan : isNaN a
  case true => exact .inr ⟨isNaN_div d (by simp [hnan]), isNaN_mul d' (by simp [hnan])⟩
  rcases isInf_or_isFinite hnan with ha | ha
  case inr => exact .inl (div_two_pow_eq_mul_inv d d' d'' ha hj)
  obtain ⟨hfin, hval⟩ := value_inv_two_pow d'' hj
  have hpos : 0 < value (div d'' (fromNat 1) (fromNat (2 ^ j))) := by rw [hval]; positivity
  have hzero : isZero (div d'' (fromNat 1) (fromNat (2 ^ j))) = false := by
    by_contra h
    rw [value, signedSignificand_of_isZero (Bool.eq_true_of_not_eq_false h)] at hpos
    simp at hpos
  have hb := isFinite_fromNat_two_pow hj
  rw [mul_of_isInf d' hnan (not_isNaN_of_isFinite hfin) (by simp [ha]), hzero, sign_of_value_pos hpos]
  simp [div, ha, hnan, not_isNaN_of_isFinite hb, not_isInf_of_isFinite hb, not_isZero_of_isInf ha, SameValue.refl]

/-- Settles O42: both loops change each element once, from its own old lanes. -/
theorem scalingDividesEveryLane : Obligations.ScalingDividesEveryLane := by
  intro m srcSeed dstSeed w hm hmax n e u v
  have hn : n ≤ Config.nmax := Nat.pow_le_pow_right two_pos hmax
  have hj : m ≤ 1023 := hmax.trans (by decide)
  have he : e.ReadsStores Config.nmax := bufferEnv_readsStores _ _ _
  have hroot : Float64.sqrt w.draw (fromNat n) = Float64.sqrt 0 (fromNat n) := (nonNegative_fromNat n).sqrt_draw _ _
  have hscaled (k : Nat) (l : Lane) (hk : k < n) :
      SameValue (e.dst u.mem k l) (div 0 (e.dst w.mem k l) (fromNat n)) := by
    obtain ⟨d, hd⟩ := dst_scaleN he hn w hk l
    exact (SameValue.refl _).trans (hd ▸ div_sameValue d 0 _ _)
  have hmem {k : Nat} (hk : k < n) : k ∈ List.range n := List.mem_range.2 hk
  refine ⟨hscaled, fun k l hk => (hscaled k l hk).trans (div_two_pow_sameValue_mul_inv 0 0 0 _ hj), ?scaleFrame,
    ?scaleRegs, fun k hk => ?norm, ?normFrame, ?normRegs⟩
  case scaleFrame =>
    refine forStride_sameOutsideLanes (body := scaleElem e n) (fun k v hk => ?_) w
    rw [scaleElem_mem]
    exact put_pair_sameOutsideLanes _ _ _ (hmem hk) _ _ v
  case scaleRegs =>
    exact forStride_keeps (P := fun v : Work Memory F64 => v.regs = { w.regs with k := v.regs.k })
      (body := scaleElem e n) (fun k _ hv => congrArg (fun q : Regs F64 => { q with k := k }) hv) n 0 w rfl
  case norm =>
    obtain ⟨d, hd⟩ := (dst_hartleyNorm he hn w hk).1
    rw [show v = hartleyNorm e n w from rfl, hd, ← hroot]
    exact div_sameValue d 0 _ _
  case normFrame =>
    refine forStride_sameOutsideLanes (body := normElem e) (fun k v hk => ?_) (normRoot e.num n w)
    rw [normElem_mem]
    exact put_sameOutsideLanes _ _ _ (hmem hk) (List.mem_singleton_self _) v.mem _
  case normRegs =>
    rw [← hroot]
    exact forStride_keeps (body := normElem e)
      (P := fun v : Work Memory F64 =>
        v.regs = { w.regs with rootN := Float64.sqrt w.draw (fromNat n), k := v.regs.k })
      (fun k _ hv => congrArg (fun q : Regs F64 => { q with k := k }) hv) n 0 (normRoot e.num n w) rfl

end Sys2Proof.Machine
end

section
/-! PROOFS. The operations of F: each rounds the exact result once (00_scope R7), what they give on special values (R9),
and the constants. -/

namespace Sys2Proof.Machine.Float64

/-! ### Addition, subtraction, multiplication -/

/-- The sign of an exact zero sum. -/
theorem sign_add_of_value_eq_zero (d : Nat) {a b : F64} (ha : isFinite a = true) (hb : isFinite b = true)
    (h : value a + value b = 0) : sign (add d a b) = (sign a && sign b && isZero a) := by
  have hsum : exactSum a b = 0 := by
    rw [← exactSum_mul_unit] at h
    exact_mod_cast (mul_eq_zero.1 h).resolve_right (by positivity)
  rw [add_of_isFinite d ha hb, addFinite, hsum, if_pos rfl, sign_ofParts _ (by decide)]

/-- Settles O45: one rounding of the exact integer result. -/
theorem addSubMulAreRounded : Obligations.AddSubMulAreRounded := by
  intro d a b ha hb
  refine ⟨isRounding_add d ha hb, isRounding_sub d ha hb, isRounding_mul d ha hb, fun h => ?_, ?_⟩
  · rw [sign_add_of_value_eq_zero d ha hb h, Bool.and_eq_true, Bool.and_eq_true]
    exact ⟨fun ⟨⟨hsa, hsb⟩, hz⟩ => ⟨hz, hsa, hsb⟩, fun ⟨hz, hsa, hsb⟩ => ⟨⟨hsa, hsb⟩, hz⟩⟩
  · rw [mul_of_isFinite d ha hb, sign_round]

/-! ### A sticky bit rounds as the real number does -/

/-- S stands for the real Y: equal to it when even, next to it on either side when odd. -/
structure StandsFor (S : Nat) (Y : ℝ) : Prop where
  even : S % 2 = 0 → Y = S
  odd : S % 2 = 1 → (S : ℝ) - 1 < Y ∧ Y < S + 1

/-- An even integer that an odd S reaches from either side, Y passes. -/
theorem StandsFor.pass {S : Nat} {Y : ℝ} (h : StandsFor S Y) (ho : S % 2 = 1) {k : Int} (hk : k % 2 = 0) :
    ((k : ℝ) ≤ S → (k : ℝ) < Y) ∧ ((S : ℝ) ≤ k → Y < k) := by
  obtain ⟨hlo, hhi⟩ := h.odd ho
  constructor
  · intro hle
    have hle : k ≤ (S : Int) := by exact_mod_cast hle
    have hlt : k ≤ (S : Int) - 1 := by omega
    have : (k : ℝ) ≤ S - 1 := by exact_mod_cast hlt
    linarith
  · intro hle
    have hle : (S : Int) ≤ k := by exact_mod_cast hle
    have hlt : (S : Int) + 1 ≤ k := by omega
    have : (S : ℝ) + 1 ≤ k := by exact_mod_cast hlt
    linarith

/-- With two bits or more below the step, an odd S is no tie, and Y rounds as S does. -/
theorem RoundsTo.of_standsFor {q S v r : Nat} {Y : ℝ} (hS : StandsFor S Y) (ho : S % 2 = 1)
    (h : RoundsTo q (S / 2 ^ (v + 2)) r) : RoundsTo q (Y / 2 ^ (v + 2)) r := by
  have hp : (0 : ℝ) < 2 ^ (v + 2) := by positivity
  have hhalf : (2 : ℝ) ^ (v + 1) = 2 ^ (v + 2) / 2 := by rw [pow_succ 2 (v + 1), mul_div_cancel_right₀ _ two_ne_zero]
  have heven (c : Int) : (c * 2 ^ (v + 1)) % 2 = 0 := by
    rw [pow_succ, ← mul_assoc]
    exact Int.mul_emod_left _ _
  have hpass (c : Int) := hS.pass ho (heven c)
  simp only [Int.cast_mul, Int.cast_pow, Int.cast_ofNat, hhalf] at hpass
  generalize (2 : ℝ) ^ (v + 2) = P at hp hpass h ⊢
  obtain ⟨hnearLo, hnearHi⟩ := abs_le.1 h.near
  have hS' : (S : ℝ) / P * P = S := div_mul_cancel₀ _ hp.ne'
  have hbelow : (r : ℝ) - 1 / 2 < Y / P := by
    rw [lt_div_iff₀ hp]
    have hle := mul_le_mul_of_nonneg_right hnearHi hp.le
    have hlt := (hpass (2 * r - 1)).1 (by push_cast; linarith)
    push_cast at hlt
    linarith
  have habove : Y / P < r + 1 / 2 := by
    rw [div_lt_iff₀ hp]
    have hle := mul_le_mul_of_nonneg_right hnearLo hp.le
    have hlt := (hpass (2 * r + 1)).2 (by push_cast; linarith)
    push_cast at hlt
    linarith
  have hnear : |(r : ℝ) - Y / P| < 1 / 2 := abs_lt.2 ⟨by linarith, by linarith⟩
  refine ⟨?_, h.low.imp_right fun hlow => ?_, ?_, hnear.le, fun htie => absurd htie hnear.ne⟩
  · have hlt := (hpass 0).1 (by simp)
    simp only [Int.cast_zero, zero_mul] at hlt
    positivity
  · rw [le_div_iff₀ hp] at hlow ⊢
    have hlt := (hpass (2 * 2 ^ 52)).1 (by push_cast; linarith)
    push_cast at hlt
    linarith
  · have hhigh := h.high
    rw [div_lt_iff₀ hp] at hhigh ⊢
    have hlt := (hpass (2 * 2 ^ 53)).2 (by push_cast; linarith)
    push_cast at hlt
    linarith

/-- Rounding S rounds what it stands for, when S keeps two bits below the 53 of a result. -/
theorem isRounding_round_of_standsFor (s : Bool) {S : Nat} {Y : ℝ} (e : Int) (hS : StandsFor S Y)
    (hlog : S % 2 = 1 → 54 ≤ Nat.log2 S) : IsRounding (sgn s * Y * 2 ^ (e - 1074)) (round s S e) := by
  rcases Nat.mod_two_eq_zero_or_one S with he | ho
  · rw [hS.even he]
    exact isRounding_round s S e
  have hlog := hlog ho
  have hS0 : S ≠ 0 := by omega
  obtain ⟨j, k, rfl⟩ : ∃ j k : Nat, e = -(k : Int) + j := ⟨e.toNat, (-e).toNat, by omega⟩
  have h := roundsTo_roundShift (m := S * 2 ^ j) (k := k)
  rw [log2_mul_pow j hS0] at h
  obtain ⟨v, hv⟩ : ∃ v, Nat.log2 S + j - (k + 52) + k = v + 2 + j :=
    ⟨Nat.log2 S + j - (k + 52) + k - 2 - j, by omega⟩
  have hquot : ((S * 2 ^ j : Nat) : ℝ) / 2 ^ (v + 2 + j) = S / 2 ^ (v + 2) := by
    rw [Nat.cast_mul, Nat.cast_pow, Nat.cast_ofNat, pow_add 2 (v + 2) j]
    exact mul_div_mul_right _ _ (by positivity)
  rw [hv, hquot] at h
  have h' := (RoundsTo.of_standsFor hS ho h).isRounding s
  rw [← hv, ← log2_mul_pow j hS0, ← roundMag_neg, roundMag_mul_pow] at h'
  change IsRounding _ (ofParts s (roundMag S _))
  convert h' using 1
  rw [log2_mul_pow j hS0]
  have hunit : Y / 2 ^ (v + 2) * 2 ^ (Nat.log2 S + j - (k + 52)) = Y * 2 ^ ((j : ℤ) - k) := by
    rw [div_mul_eq_mul_div, div_eq_iff (by positivity), mul_assoc, ← zpow_natCast, ← zpow_natCast,
      ← zpow_add₀ two_ne_zero]
    congr 2
    omega
  rw [hunit, mul_assoc (sgn s), mul_assoc (sgn s), mul_assoc Y, ← zpow_add₀ two_ne_zero]
  congr 3
  ring

/-! ### Division -/

theorem standsFor_stickyQuotient (m : Nat) {n : Nat} (hn : 0 < n) : StandsFor (stickyQuotient m n) (2 * (m / n)) := by
  have hn' : (0 : ℝ) < n := by exact_mod_cast hn
  have hsplit : (m : ℝ) = (m / n : Nat) * n + (m % n : Nat) := by exact_mod_cast (Nat.div_add_mod' m n).symm
  have hmod : ((m % n : Nat) : ℝ) < n := by exact_mod_cast Nat.mod_lt m hn
  have hquot : (m : ℝ) / n = (m / n : Nat) + (m % n : Nat) / n := by
    rw [div_eq_iff hn'.ne', add_mul, div_mul_cancel₀ _ hn'.ne']
    exact hsplit
  unfold stickyQuotient
  split
  next h0 =>
    refine ⟨fun _ => ?_, fun ho => by omega⟩
    rw [hquot, h0]
    push_cast
    ring
  next h0 =>
    refine ⟨fun he => by omega, fun _ => ?_⟩
    have hpos : (0 : ℝ) < (m % n : Nat) / n := div_pos (by exact_mod_cast Nat.pos_of_ne_zero h0) hn'
    have hlt : ((m % n : Nat) : ℝ) / n < 1 := (div_lt_one hn').2 hmod
    rw [hquot]
    push_cast
    constructor <;> linarith

/-- The quotient of the model has its 55 bits. -/
theorem le_log2_stickyQuotient {m n : Nat} (hm : m ≠ 0) (hn : n ≠ 0) :
    54 ≤ Nat.log2 (stickyQuotient (m * 2 ^ (55 + Nat.log2 n)) n) := by
  have hlt : n < 2 ^ (Nat.log2 n + 1) := Nat.lt_log2_self
  have hquot : 2 ^ 54 ≤ m * 2 ^ (55 + Nat.log2 n) / n := by
    rw [Nat.le_div_iff_mul_le (Nat.pos_of_ne_zero hn)]
    calc 2 ^ 54 * n ≤ 2 ^ 54 * 2 ^ (Nat.log2 n + 1) := Nat.mul_le_mul_left _ hlt.le
      _ = 1 * 2 ^ (55 + Nat.log2 n) := by rw [← pow_add, one_mul]; congr 1; omega
      _ ≤ m * 2 ^ (55 + Nat.log2 n) := Nat.mul_le_mul_right _ (Nat.pos_of_ne_zero hm)
  have hle : 2 ^ 54 ≤ stickyQuotient (m * 2 ^ (55 + Nat.log2 n)) n := by unfold stickyQuotient; omega
  exact (Nat.le_log2 (by omega)).2 hle

theorem div_of_isFinite (d : Nat) {a b : F64} (ha : isFinite a = true) (hb : isFinite b = true)
    (hb0 : isZero b = false) :
    div d a b = round (sign a != sign b)
      (stickyQuotient (significand a * 2 ^ (55 + Nat.log2 (significand b))) (significand b))
      ((scale a : Int) - scale b - (55 + Nat.log2 (significand b) : Nat) - 1 + 1074) := by
  simp [div, not_isNaN_of_isFinite, not_isInf_of_isFinite, ha, hb, hb0]

theorem isRounding_div (d : Nat) {a b : F64} (ha : isFinite a = true) (hb : isFinite b = true)
    (hb0 : isZero b = false) : IsRounding (value a / value b) (div d a b) := by
  have hsb : significand b ≠ 0 := fun h => of_decide_eq_false hb0 ((significand_eq_zero_iff b).1 h)
  rw [div_of_isFinite d ha hb hb0]
  generalize hk : 55 + Nat.log2 (significand b) = k
  have hround := isRounding_round_of_standsFor (sign a != sign b) ((scale a : Int) - scale b - k - 1 + 1074)
    (standsFor_stickyQuotient (significand a * 2 ^ k) (Nat.pos_of_ne_zero hsb)) fun ho => ?_
  · convert hround using 1
    have hsb' : (significand b : ℝ) ≠ 0 := by exact_mod_cast hsb
    have hexp : (2 : ℝ) ^ ((scale a : ℤ) - scale b - k - 1 + 1074 - 1074) =
        2 ^ ((scale a : ℤ) - 1074) / 2 ^ ((scale b : ℤ) - 1074) / 2 ^ k / 2 := by
      rw [show (scale a : ℤ) - scale b - k - 1 + 1074 - 1074 = scale a - 1074 - (scale b - 1074) - k - 1 by ring,
        zpow_sub_one₀ two_ne_zero, zpow_sub₀ two_ne_zero, zpow_sub₀ two_ne_zero, zpow_natCast, ← div_eq_mul_inv]
    rw [hexp, value_eq_significand a, value_eq_significand b, sgn_bne, Nat.cast_mul, Nat.cast_pow, Nat.cast_ofNat]
    have hsgn : sgn (sign b) * sgn (sign b) = 1 := by cases sign b <;> simp
    have hsgn0 : sgn (sign b) ≠ 0 := by cases sign b <;> simp
    field_simp
    linear_combination (-(sgn (sign a) * significand a)) * hsgn
  · rcases eq_or_ne (significand a) 0 with h0 | h0
    · rw [h0, Nat.zero_mul] at ho
      simp [stickyQuotient] at ho
    · subst hk
      exact le_log2_stickyQuotient h0 hsb

/-! ### The square root -/

theorem isqrtFrom_spec (n : Nat) {b r : Nat} (hlo : r * r ≤ n) (hhi : n < (r + 2 ^ b) * (r + 2 ^ b)) :
    isqrtFrom n b r * isqrtFrom n b r ≤ n ∧ n < (isqrtFrom n b r + 1) * (isqrtFrom n b r + 1) := by
  induction b generalizing r with
  | zero => exact ⟨hlo, hhi⟩
  | succ b ih =>
    rw [isqrtFrom]
    split
    next h => exact ih h (by rw [add_assoc, ← two_mul, ← pow_succ']; exact hhi)
    next h => exact ih hlo (Nat.lt_of_not_le h)

theorem isqrt_eq_sqrt {n : Nat} (hn : n < 2 ^ 168) : isqrt n = Nat.sqrt n :=
  Nat.eq_sqrt.2 (isqrtFrom_spec n (Nat.zero_le n) (by rw [Nat.zero_add, ← pow_add]; exact hn))

theorem standsFor_stickyRoot {n : Nat} (hn : n < 2 ^ 168) : StandsFor (stickyRoot n) (2 * Real.sqrt n) := by
  unfold stickyRoot
  rw [isqrt_eq_sqrt hn]
  have hlo : Nat.sqrt n * Nat.sqrt n ≤ n := Nat.sqrt_le n
  have hhi : n < (Nat.sqrt n + 1) * (Nat.sqrt n + 1) := Nat.lt_succ_sqrt n
  split
  next heq =>
    refine ⟨fun _ => ?_, fun ho => by omega⟩
    have hroot : Real.sqrt n = Nat.sqrt n := by
      rw [Real.sqrt_eq_iff_mul_self_eq (Nat.cast_nonneg _) (Nat.cast_nonneg _)]
      exact_mod_cast heq.symm
    rw [hroot]
    push_cast
    ring
  next hne =>
    refine ⟨fun he => by omega, fun _ => ?_⟩
    have hgt : (Nat.sqrt n : ℝ) < Real.sqrt n := by
      refine Real.lt_sqrt_of_sq_lt ?_
      rw [sq]
      exact_mod_cast lt_of_le_of_ne hlo hne
    have hlt : Real.sqrt n < Nat.sqrt n + 1 := by
      rw [Real.sqrt_lt' (by positivity), sq]
      exact_mod_cast hhi
    push_cast
    constructor <;> linarith

theorem le_log2_stickyRoot {n : Nat} (hlo : 2 ^ 110 ≤ n) (hn : n < 2 ^ 168) : 54 ≤ Nat.log2 (stickyRoot n) := by
  have hroot : 2 ^ 55 ≤ Nat.sqrt n := Nat.le_sqrt.2 (by rw [← pow_add]; exact hlo)
  have hle : 2 ^ 54 ≤ stickyRoot n := by
    unfold stickyRoot
    rw [isqrt_eq_sqrt hn]
    omega
  exact (Nat.le_log2 (by omega)).2 hle

theorem isRounding_sqrt (d : Nat) {a : F64} (ha : isFinite a = true) (hs : sign a = false) :
    IsRounding (Real.sqrt (value a)) (Float64.sqrt d a) := by
  cases h0 : isZero a
  case true =>
    have hval : value a = 0 := by simp [value, signedSignificand_of_isZero h0]
    have hself := isRounding_self ha
    rw [hval] at hself
    rwa [sqrt_of_isZero d h0, hval, Real.sqrt_zero]
  have hsig : significand a ≠ 0 := fun h => of_decide_eq_false h0 ((significand_eq_zero_iff a).1 h)
  have hlt := significand_lt a
  rw [NonNegative.sqrt_of_isFinite d ⟨not_isNaN_of_isFinite ha, hs⟩ ha h0]
  obtain ⟨p, hp⟩ : ∃ p, scale a % 2 = p := ⟨_, rfl⟩
  obtain ⟨h, hh⟩ : ∃ h, scale a / 2 = h := ⟨_, rfl⟩
  have hscale : scale a = 2 * h + p := by omega
  have hp2 : 2 ^ p ≤ 2 := by
    have : p = 0 ∨ p = 1 := by omega
    rcases this with rfl | rfl <;> decide
  rw [hp, hh]
  have hmLo : 2 ^ 110 ≤ significand a * 2 ^ p * 2 ^ 110 :=
    Nat.le_mul_of_pos_left _ (Nat.mul_pos (Nat.pos_of_ne_zero hsig) (Nat.two_pow_pos p))
  have hmHi : significand a * 2 ^ p * 2 ^ 110 < 2 ^ 168 := by
    have := Nat.mul_le_mul hlt.le hp2
    omega
  have hround := isRounding_round_of_standsFor false ((h : Nat) - 55 - 1 + 537 : Int) (standsFor_stickyRoot hmHi)
    fun _ => le_log2_stickyRoot hmLo hmHi
  convert hround using 1
  have hvalue : value a = (significand a * 2 ^ p * 2 ^ 110 : Nat) * (2 ^ ((h : ℤ) - 592)) ^ 2 := by
    rw [value_eq_significand, hs, sgn_false, one_mul, hscale, ← zpow_natCast (2 ^ ((h : ℤ) - 592)), ← zpow_mul,
      Nat.cast_mul, Nat.cast_mul, Nat.cast_pow, Nat.cast_pow, Nat.cast_ofNat]
    rw [mul_assoc, mul_assoc, ← zpow_natCast, ← zpow_natCast, ← zpow_add₀ two_ne_zero, ← zpow_add₀ two_ne_zero]
    congr 2
    push_cast
    ring
  rw [hvalue, Real.sqrt_mul (Nat.cast_nonneg _), Real.sqrt_sq (by positivity), sgn_false, one_mul,
    show (h : ℤ) - 55 - 1 + 537 - 1074 = (h - 592) - 1 by ring, zpow_sub_one₀ two_ne_zero]
  ring

/-- Settles O46: the sticky bit below two spare bits stands for the rest of the real result. -/
theorem divAndSqrtAreRounded : Obligations.DivAndSqrtAreRounded :=
  ⟨fun d _ _ ha hb hb0 => ⟨isRounding_div d ha hb hb0, by rw [div_of_isFinite d ha hb hb0, sign_round]⟩,
    fun d _ ha hs => isRounding_sqrt d ha hs, fun d _ h => sqrt_of_isZero d h⟩

/-! ### The constants -/

theorem fromNat_exact {n : Nat} (hn : n ≤ 2 ^ 53) : isFinite (fromNat n) = true ∧ value (fromNat n) = n := by
  rcases hn.lt_or_eq with hlt | rfl
  · have hbound {e t : Nat} (he : 53 + e ≤ t) : n * 2 ^ e < 2 ^ t := by
      calc n * 2 ^ e < 2 ^ 53 * 2 ^ e := Nat.mul_lt_mul_of_pos_right hlt (Nat.two_pow_pos e)
        _ = 2 ^ (53 + e) := (pow_add 2 53 e).symm
        _ ≤ 2 ^ t := Nat.pow_le_pow_right two_pos he
    obtain ⟨hfin, hval⟩ := round_exact false hlt (hbound (e := 1074) (by decide))
    exact ⟨hfin, by rw [fromNat]; simpa using hval⟩
  · exact ⟨isFinite_fromNat_two_pow (by decide), by rw [value_fromNat_two_pow (by decide)]; norm_cast⟩

/-- A number less than half a unit from r·2^-p, r of 53 bits, is rounded to the word of that value. -/
theorem isRounding_of_near {x : ℝ} {q p r : Nat} {c : F64} (hqp : q + p = 1074)
    (hlow : 2 ^ 52 + 1 / 2 ≤ (r : ℝ)) (hhigh : (r : ℝ) + 1 / 2 ≤ 2 ^ 53) (hnear : |(r : ℝ) - x * 2 ^ p| < 1 / 2)
    (hc : ofParts false (min infMag (q * 2 ^ 52 + r)) = c) : IsRounding x c := by
  obtain ⟨hlo, hhi⟩ := abs_lt.1 hnear
  have hrounds : RoundsTo q (x * 2 ^ p) r := by
    refine ⟨?_, .inr (by linarith), by linarith, hnear.le, fun htie => absurd htie hnear.ne⟩
    have : (0 : ℝ) ≤ 2 ^ 52 := by positivity
    linarith
  have h := hrounds.isRounding false
  rw [hc, sgn_false, one_mul, mul_assoc x, ← pow_add, Nat.add_comm p q, hqp, mul_assoc, ← zpow_natCast,
    ← zpow_add₀ two_ne_zero] at h
  simpa using h

/-- Settles O49: twenty decimal digits of pi are more than the 53 bits need. -/
theorem constantsAreNearest : Obligations.ConstantsAreNearest := by
  have hlo := Real.pi_gt_d20
  have hhi := Real.pi_lt_d20
  refine ⟨fun n hn => fromNat_exact hn, ?pi, ?half, ?quarter, ?threeQuarter⟩
  case pi =>
    refine isRounding_of_near (q := 1023) (p := 51) (r := 7074237752028440) rfl (by norm_num) (by norm_num)
      (abs_lt.2 ⟨?_, ?_⟩) (by decide +kernel) <;> norm_num at hlo hhi ⊢ <;> linarith
  case half =>
    refine isRounding_of_near (q := 1022) (p := 52) (r := 7074237752028440) rfl (by norm_num) (by norm_num)
      (abs_lt.2 ⟨?_, ?_⟩) (by decide +kernel) <;> norm_num at hlo hhi ⊢ <;> linarith
  case quarter =>
    refine isRounding_of_near (q := 1021) (p := 53) (r := 7074237752028440) rfl (by norm_num) (by norm_num)
      (abs_lt.2 ⟨?_, ?_⟩) (by decide +kernel) <;> norm_num at hlo hhi ⊢ <;> linarith
  case threeQuarter =>
    refine isRounding_of_near (q := 1023) (p := 51) (r := 5305678314021330) rfl (by norm_num) (by norm_num)
      (abs_lt.2 ⟨?_, ?_⟩) (by decide +kernel) <;> norm_num at hlo hhi ⊢ <;> linarith

/-! ### Special values -/

theorem isNaN_round (s : Bool) (m : Nat) (e : Int) : isNaN (round s m e) = false := isNaN_ofParts (roundMag_le m e)

theorem isNaN_addFinite (a b : F64) : isNaN (addFinite a b) = false := by
  rw [addFinite]
  split
  · exact isNaN_ofParts (Nat.zero_le _)
  · exact isNaN_round _ _ _

/-- Every word is a NaN, an infinity or finite. -/
theorem class_cases (a : F64) : isNaN a = true ∨ isInf a = true ∨ isFinite a = true := by
  cases h : isNaN a
  · exact .inr (isInf_or_isFinite h)
  · exact .inl rfl

theorem isInf_ofParts_infMag (s : Bool) : isInf (ofParts s infMag) = true :=
  decide_eq_true (mag_ofParts s infMag_lt)

section Division

variable (d : Nat) {a b : F64}

theorem div_of_isInf_isInf (ha : isInf a = true) (hb : isInf b = true) : div d a b = nan d := by
  simp [div, not_isNaN_of_isInf, ha, hb]

theorem div_of_isInf_isFinite (ha : isInf a = true) (hb : isFinite b = true) :
    div d a b = ofParts (sign a != sign b) infMag := by
  simp [div, not_isNaN_of_isInf, not_isNaN_of_isFinite, not_isInf_of_isFinite, ha, hb]

theorem div_of_isFinite_isInf (ha : isFinite a = true) (hb : isInf b = true) :
    div d a b = ofParts (sign a != sign b) 0 := by
  simp [div, not_isNaN_of_isInf, not_isNaN_of_isFinite, not_isInf_of_isFinite, ha, hb]

theorem div_of_isZero_right (ha : isFinite a = true) (hb : isZero b = true) :
    div d a b = if isZero a then nan d else ofParts (sign a != sign b) infMag := by
  simp [div, not_isNaN_of_isFinite, not_isInf_of_isFinite, not_isNaN_of_isZero, not_isInf_of_isZero, ha, hb]

end Division

/-! #### When a result is a NaN -/

section NaNResults

variable (d : Nat) (a b : F64)

theorem isNaN_add_iff : isNaN (add d a b) = true ↔
    isNaN a = true ∨ isNaN b = true ∨ (isInf a = true ∧ isInf b = true ∧ sign a ≠ sign b) := by
  rcases class_cases a with ha | ha | ha
  · simp [isNaN_add, ha]
  all_goals rcases class_cases b with hb | hb | hb
  · simp [isNaN_add, hb]
  · rw [add_of_isInf_isInf d ha hb]
    by_cases hs : sign a = sign b <;> simp [hs, ha, hb, not_isNaN_of_isInf, isNaN_nan]
  · simp [add_of_isInf_isFinite d ha hb, ha, hb, not_isNaN_of_isInf, not_isNaN_of_isFinite, not_isInf_of_isFinite]
  · simp [isNaN_add, hb]
  · simp [add_of_isFinite_isInf d ha hb, ha, hb, not_isNaN_of_isInf, not_isNaN_of_isFinite, not_isInf_of_isFinite]
  · simp [add_of_isFinite d ha hb, isNaN_addFinite, ha, hb, not_isNaN_of_isFinite, not_isInf_of_isFinite]

theorem isNaN_sub_iff : isNaN (sub d a b) = true ↔
    isNaN a = true ∨ isNaN b = true ∨ (isInf a = true ∧ isInf b = true ∧ sign a = sign b) := by
  rw [sub, isNaN_add_iff, isNaN_neg, isInf_neg, sign_neg]
  cases sign a <;> cases sign b <;> simp

theorem isNaN_mul_iff : isNaN (mul d a b) = true ↔ isNaN a = true ∨ isNaN b = true ∨
    (isInf a = true ∧ isZero b = true) ∨ (isZero a = true ∧ isInf b = true) := by
  have hinf (ha : isNaN a = false) (hb : isNaN b = false) (h : (isInf a || isInf b) = true) :
      isNaN (mul d a b) = true ↔ isZero a = true ∨ isZero b = true := by
    rw [mul_of_isInf d ha hb h, ← Bool.or_eq_true]
    split
    next hz => simp [isNaN_nan, hz]
    next hz => simp [isNaN_ofParts le_rfl, hz]
  rcases class_cases a with ha | ha | ha
  · simp [isNaN_mul, ha]
  all_goals rcases class_cases b with hb | hb | hb
  · simp [isNaN_mul, hb]
  · simp [hinf, ha, hb, not_isNaN_of_isInf, not_isZero_of_isInf]
  · simp [hinf, ha, hb, not_isNaN_of_isInf, not_isZero_of_isInf, not_isNaN_of_isFinite, not_isInf_of_isFinite]
  · simp [isNaN_mul, hb]
  · simp [hinf, ha, hb, not_isNaN_of_isInf, not_isZero_of_isInf, not_isNaN_of_isFinite, not_isInf_of_isFinite]
  · simp [mul_of_isFinite d ha hb, isNaN_round, ha, hb, not_isNaN_of_isFinite, not_isInf_of_isFinite]

theorem isNaN_div_iff : isNaN (div d a b) = true ↔ isNaN a = true ∨ isNaN b = true ∨
    (isInf a = true ∧ isInf b = true) ∨ (isZero a = true ∧ isZero b = true) := by
  rcases class_cases a with ha | ha | ha
  · simp [isNaN_div, ha]
  all_goals rcases class_cases b with hb | hb | hb
  · simp [isNaN_div, hb]
  · simp [div_of_isInf_isInf d ha hb, isNaN_nan, ha, hb]
  · simp [div_of_isInf_isFinite d ha hb, isNaN_ofParts, ha, hb, not_isNaN_of_isInf, not_isZero_of_isInf,
      not_isNaN_of_isFinite, not_isInf_of_isFinite]
  · simp [isNaN_div, hb]
  · simp [div_of_isFinite_isInf d ha hb, isNaN_ofParts, ha, hb, not_isNaN_of_isInf, not_isZero_of_isInf,
      not_isNaN_of_isFinite, not_isInf_of_isFinite]
  · cases hb0 : isZero b
    · simp [div_of_isFinite d ha hb hb0, isNaN_round, ha, hb, not_isNaN_of_isFinite, not_isInf_of_isFinite]
    · rw [div_of_isZero_right d ha hb0]
      cases ha0 : isZero a <;>
        simp [isNaN_nan, isNaN_ofParts, ha, hb, not_isNaN_of_isFinite, not_isInf_of_isFinite]

theorem isNaN_sqrt_iff : isNaN (Float64.sqrt d a) = true ↔ isNaN a = true ∨ (sign a = true ∧ isZero a = false) := by
  cases hn : isNaN a
  case true => simp [isNaN_sqrt d hn]
  cases h0 : isZero a
  case true => simp [sqrt_of_isZero d h0, hn]
  cases hs : sign a
  case false => simp [(NonNegative.sqrt d ⟨hn, hs⟩).1]
  case true => simp [Float64.sqrt, hn, h0, hs, isNaN_nan]

end NaNResults

/-! #### Infinities and zero divisors -/

section Infinities

variable (d : Nat) {a b : F64}

theorem add_sub_of_isInf_isFinite (ha : isInf a = true) (hb : isFinite b = true) :
    add d a b = a ∧ add d b a = a ∧ sub d a b = a ∧ sub d b a = neg a :=
  ⟨add_of_isInf_isFinite d ha hb, add_of_isFinite_isInf d hb ha,
    add_of_isInf_isFinite d ha ((isFinite_neg b).trans hb), add_of_isFinite_isInf d hb ((isInf_neg a).trans ha)⟩

theorem isInf_mul_of_isInf (ha : isInf a = true) (hb : isNaN b = false) (hb0 : isZero b = false) :
    isInf (mul d a b) = true ∧ sign (mul d a b) = (sign a != sign b) ∧
    isInf (mul d b a) = true ∧ sign (mul d b a) = (sign a != sign b) := by
  have ha' := not_isNaN_of_isInf ha
  have hleft : mul d a b = ofParts (sign a != sign b) infMag := by
    rw [mul_of_isInf d ha' hb (by simp [ha]), not_isZero_of_isInf ha, hb0]
    rfl
  have hright : mul d b a = ofParts (sign a != sign b) infMag := by
    rw [mul_of_isInf d hb ha' (by simp [ha]), not_isZero_of_isInf ha, hb0, bne_comm]
    rfl
  rw [hleft, hright, sign_ofParts _ infMag_lt]
  exact ⟨isInf_ofParts_infMag _, rfl, isInf_ofParts_infMag _, rfl⟩

theorem add_sub_of_isInf_isInf (ha : isInf a = true) (hb : isInf b = true) :
    (sign a = sign b → add d a b = a) ∧ (sign a ≠ sign b → sub d a b = a) := by
  constructor
  · intro hs
    rw [add_of_isInf_isInf d ha hb, hs, bne_self_eq_false]
    rfl
  · intro hs
    rw [sub, add_of_isInf_isInf d ha ((isInf_neg b).trans hb), sign_neg]
    cases hsa : sign a <;> cases hsb : sign b <;> simp_all

theorem isZero_div_of_isInf_right (hb : isInf b = true) (ha : isFinite a = true) :
    isZero (div d a b) = true ∧ sign (div d a b) = (sign a != sign b) := by
  rw [div_of_isFinite_isInf d ha hb, sign_ofParts _ (by decide)]
  exact ⟨isZero_ofParts_zero _, rfl⟩

theorem isInf_div_of_isInf_left (ha : isInf a = true) (hb : isFinite b = true) :
    isInf (div d a b) = true ∧ sign (div d a b) = (sign a != sign b) := by
  rw [div_of_isInf_isFinite d ha hb, sign_ofParts _ infMag_lt]
  exact ⟨isInf_ofParts_infMag _, rfl⟩

theorem isInf_div_of_isZero_right (ha : isFinite a = true) (ha0 : isZero a = false) (hb : isZero b = true) :
    isInf (div d a b) = true ∧ sign (div d a b) = (sign a != sign b) := by
  rw [div_of_isZero_right d ha hb, ha0, if_neg Bool.false_ne_true, sign_ofParts _ infMag_lt]
  exact ⟨isInf_ofParts_infMag _, rfl⟩

end Infinities

/-- Every NaN is the free one of its own bits. -/
theorem nanOf_self {x : F64} (hx : isNaN x = true) : nanOf x = x := by
  have hmag : infMag < mag x := of_decide_eq_true hx
  have hlt := mag_lt x
  have hfrac : infMag + (if x.toNat % 2 ^ 52 = 0 then 1 else x.toNat % 2 ^ 52) = mag x := by
    simp only [infMag, mag] at hmag hlt ⊢
    split <;> omega
  rw [nanOf, hfrac, ofParts_sign_mag]

/-- Settles O47: by the classes of the operands. -/
theorem specialValues : Obligations.SpecialValues :=
  ⟨fun d a b => ⟨isNaN_add_iff d a b, isNaN_sub_iff d a b, isNaN_mul_iff d a b, isNaN_div_iff d a b, isNaN_sqrt_iff d a,
    add_sub_of_isInf_isFinite d, isInf_mul_of_isInf d, add_sub_of_isInf_isInf d, isZero_div_of_isInf_right d,
    isInf_div_of_isInf_left d, isInf_div_of_isZero_right d,
    fun ha hs => NonNegative.sqrt_of_isInf d ⟨not_isNaN_of_isInf ha, hs⟩ ha, mag_neg a, sign_neg a⟩,
    isNaN_nanOf, fun x hx => ⟨x, nanOf_self hx⟩⟩

end Sys2Proof.Machine.Float64
end

section
/-! PROOFS. The entries of HT.TABLE (43_hartley R130): dividing the angle by a power of two before or after the product
with k is the same. -/

namespace Sys2Proof.Machine.Float64

/-! ### A power of two passes through a rounding -/

/-- Above the subnormals the rounding of a number and that of its quotient by 2^j differ in the exponent alone. -/
theorem roundMag_sub_exponent {M j : Nat} {e : Int} (hM : M ≠ 0) (hj : (j : Int) ≤ Nat.log2 M + e - 52)
    (hfin : roundMag M e < infMag) : roundMag M (e - j) + j * 2 ^ 52 = roundMag M e := by
  obtain ⟨q, hq⟩ : ∃ q : Nat, (Nat.log2 M : Int) + (e - j) - 52 = q := ⟨_, (Int.toNat_of_nonneg (by omega)).symm⟩
  have hq' : (Nat.log2 M : Int) + e - 52 = (q + j : Nat) := by push_cast; omega
  have hshift : (q : Int) - (e - j) = (q + j : Nat) - e := by push_cast; ring
  simp only [roundMag, if_neg hM, hq, hq', Int.toNat_natCast, hshift] at hfin ⊢
  generalize (if ((q + j : Nat) : Int) - e ≤ 0 then M * 2 ^ (-(((q + j : Nat) : Int) - e)).toNat
    else roundShift M (((q + j : Nat) : Int) - e).toNat) = r at hfin ⊢
  omega

/-- The exponent of a number from a lower bound. -/
theorem log2_bound {M : Nat} {e t : Int} (h : (2 : ℝ) ^ t ≤ M * 2 ^ e) : t ≤ Nat.log2 M + e := by
  have hM : (M : ℝ) < 2 ^ ((Nat.log2 M : Int) + 1) := by exact_mod_cast (Nat.lt_log2_self : M < 2 ^ (Nat.log2 M + 1))
  have hlt := h.trans_lt (mul_lt_mul_of_pos_right hM (by positivity))
  rw [← zpow_add₀ two_ne_zero, zpow_lt_zpow_iff_right₀ one_lt_two] at hlt
  omega

theorem ne_zero_of_le {M : Nat} {e t : Int} (h : (2 : ℝ) ^ t ≤ M * 2 ^ e) : M ≠ 0 := by
  rintro rfl
  rw [Nat.cast_zero, zero_mul] at h
  exact absurd h (not_le.2 (by positivity))

theorem abs_value_eq (a : F64) : |value a| = significand a * 2 ^ ((scale a : ℤ) - 1074) := by
  rw [value_eq_significand, abs_mul, abs_mul, abs_sgn, one_mul, Nat.abs_cast, abs_of_pos (by positivity)]

/-- Where nothing is subnormal, the quotient by 2^j of a product is the product with the quotient. -/
theorem mul_div_two_pow (d d' d'' d''' : Nat) {a b : F64} {j : Nat} (ha : isFinite a = true) (hb : isFinite b = true)
    (hj : j ≤ 1023) (hfin : isFinite (mul d a b) = true)
    (hproduct : (2 : ℝ) ^ ((j : ℤ) - 1022) ≤ |value a * value b|)
    (hrounded : (2 : ℝ) ^ ((j : ℤ) - 1022) ≤ |value (mul d a b)|)
    (hquotient : (2 : ℝ) ^ (-1022 : ℤ) ≤ |value b / 2 ^ j|) :
    div d' (mul d a b) (fromNat (2 ^ j)) = mul d'' a (div d''' b (fromNat (2 ^ j))) := by
  have hmul := mul_of_isFinite d ha hb
  have hdivFin : isFinite (div d''' b (fromNat (2 ^ j))) = true := isFinite_div_two_pow d''' hb hj
  have hdivSign : sign (div d''' b (fromNat (2 ^ j))) = sign b := by rw [div_fromNat_two_pow d''' hb hj, sign_round]
  have hdivValue := value_div_two_pow d''' hb hj hquotient
  have hsgn : sgn (sign b) ≠ 0 := by cases sign b <;> simp
  rw [value_eq_significand, hdivSign, value_div_two_pow_eq, mul_assoc, mul_assoc] at hdivValue
  have hpart := mul_left_cancel₀ hsgn hdivValue
  have hright : mul d'' a (div d''' b (fromNat (2 ^ j))) =
      round (sign a != sign b) (significand a * significand b) ((scale a : Int) + scale b - 1074 - j) := by
    rw [mul_of_isFinite d'' ha hdivFin, hdivSign]
    apply round_congr
    rw [Nat.cast_mul, Nat.cast_mul, mul_assoc, mul_assoc]
    congr 1
    rw [show (scale a : ℤ) + scale (div d''' b (fromNat (2 ^ j))) - 1074 =
      (scale (div d''' b (fromNat (2 ^ j))) - 1074) + scale a by ring, zpow_add₀ two_ne_zero, ← mul_assoc, hpart,
      mul_assoc, ← zpow_add₀ two_ne_zero]
    congr 2
    ring
  rw [hright, div_fromNat_two_pow d' hfin hj]
  have hsign : sign (mul d a b) = (sign a != sign b) := by rw [hmul, sign_round]
  have hmag : mag (mul d a b) = roundMag (significand a * significand b) ((scale a : Int) + scale b - 1074) := by
    rw [hmul, mag_round]
  have hself := roundMag_significand hfin
  have hlt := mag_of_isFinite hfin
  have hproduct' : (2 : ℝ) ^ ((j : ℤ) - 1022) ≤
      (significand a * significand b : Nat) * 2 ^ ((scale a : ℤ) + scale b - 1074 - 1074) := by
    rw [abs_mul, abs_value_eq a, abs_value_eq b] at hproduct
    refine hproduct.trans_eq ?_
    rw [show (scale a : ℤ) + scale b - 1074 - 1074 = (scale a - 1074) + (scale b - 1074) by ring,
      zpow_add₀ two_ne_zero, Nat.cast_mul]
    ring
  rw [abs_value_eq] at hrounded
  have hexact := log2_bound hproduct'
  have hsig := log2_bound hrounded
  have hfirst := roundMag_sub_exponent (ne_zero_of_le hproduct') (e := scale a + scale b - 1074) (j := j) (by omega)
    (hmag ▸ hlt)
  have hsecond := roundMag_sub_exponent (ne_zero_of_le hrounded) (e := scale (mul d a b)) (j := j) (by omega)
    (hself.symm ▸ hlt)
  have hround : roundMag (significand (mul d a b)) (scale (mul d a b) - j) =
      roundMag (significand a * significand b) ((scale a : Int) + scale b - 1074 - j) := by omega
  rw [hsign, round, hround, round]

theorem round_zero (s : Bool) (e : Int) : round s 0 e = ofParts s 0 := by rw [round, roundMag, if_pos rfl]

theorem mul_draw_of_isFinite (d d' : Nat) {a b : F64} (ha : isFinite a = true) (hb : isFinite b = true) :
    mul d a b = mul d' a b := by rw [mul_of_isFinite d ha hb, mul_of_isFinite d' ha hb]

/-- Rounding keeps a number above a word above it. -/
theorem le_value_of_isRounding {x : ℝ} {r c : F64} (hr : IsRounding x r) (hfin : isFinite r = true)
    (hc : isFinite c = true) (h : value c ≤ x) : value c ≤ value r := by
  have hover : ¬ overflowBound ≤ |x| := fun ho => by
    rw [IsRounding, if_pos ho, not_isInf_of_isFinite hfin] at hr
    exact Bool.false_ne_true hr.1
  rw [IsRounding, if_neg hover] at hr
  have hnear := (hr.2 c hc).1
  rw [abs_sub_comm (value c), abs_of_nonneg (sub_nonneg.2 h)] at hnear
  linarith [neg_le_abs (value r - x)]

/-! ### The angle of an entry -/

/-- 2·PI. -/
theorem twoPi_facts : isFinite (mul 0 (fromNat 2) pi) = true ∧ value (mul 0 (fromNat 2) pi) = 2 * value pi := by
  refine ⟨by decide +kernel, value_two_mul 0 isFinite_pi ?_⟩
  rw [value_pi, abs_of_pos (by positivity)]
  have hpow : (2 : ℝ) ^ 2 < 2 ^ 1023 := pow_lt_pow_right₀ one_lt_two (by decide)
  exact lt_of_le_of_lt (by norm_num) hpow

/-- For 1 ≤ k < NMAX/2 the product 2·PI·k is finite, and at least 2·PI. -/
theorem twoPi_mul_facts {k : Nat} (hk : 1 ≤ k) (hk' : k < 512) :
    isFinite (mul 0 (mul 0 (fromNat 2) pi) (fromNat k)) = true ∧
    6 ≤ value (mul 0 (mul 0 (fromNat 2) pi) (fromNat k)) ∧ 6 ≤ value (mul 0 (fromNat 2) pi) * value (fromNat k) := by
  obtain ⟨hfin, hval⟩ := twoPi_facts
  obtain ⟨hkfin, hkval⟩ := fromNat_exact (n := k) (by omega)
  have hk1 : (1 : ℝ) ≤ k := by exact_mod_cast hk
  have hk2 : (k : ℝ) ≤ 512 := by exact_mod_cast hk'.le
  have hlo : 6 ≤ value (mul 0 (fromNat 2) pi) := by rw [hval, value_pi]; norm_num
  have hhi : value (mul 0 (fromNat 2) pi) ≤ 7 := by rw [hval, value_pi]; norm_num
  have hround := isRounding_mul 0 hfin hkfin
  rw [hkval] at hround
  have hge : value (mul 0 (fromNat 2) pi) ≤ value (mul 0 (fromNat 2) pi) * k := by nlinarith
  have hprodFin : isFinite (mul 0 (mul 0 (fromNat 2) pi) (fromNat k)) = true := by
    refine isFinite_of_isRounding hround (lt_of_le_of_lt ?_ overflowBound_gt)
    rw [abs_of_nonneg (mul_nonneg (by linarith) (by linarith))]
    calc value (mul 0 (fromNat 2) pi) * k ≤ 7 * 512 := by gcongr
      _ ≤ 2 ^ 12 := by norm_num
  exact ⟨hprodFin, hlo.trans (le_value_of_isRounding hround hprodFin hfin hge), by rw [hkval]; linarith⟩

end Sys2Proof.Machine.Float64

namespace Sys2Proof.Machine

open Float64

theorem fromNat_zero_eq : fromNat 0 = zero := by decide

/-- The angle of entry k uses no free value. -/
theorem tableAngle_coreNum (d : Nat) {k m : Nat} (hm : m ≤ 10) (hk : k < 512) :
    tableAngle coreNum (2 ^ m) d k =
      div 0 (mul 0 (mul 0 (fromNat 2) pi) (fromNat k)) (fromNat (2 ^ m)) := by
  have htwo : isFinite (fromNat 2) = true := isFinite_fromNat_two_pow (j := 1) (by decide)
  have hfin : isFinite (mul 0 (mul 0 (fromNat 2) pi) (fromNat k)) = true := by
    rcases Nat.eq_zero_or_pos k with rfl | hpos
    · decide +kernel
    · exact (twoPi_mul_facts hpos hk).1
  change div (d + 2) (mul (d + 1) (mul d (fromNat 2) pi) (fromNat k)) (fromNat (2 ^ m)) = _
  rw [mul_draw_of_isFinite d 0 htwo isFinite_pi,
    mul_draw_of_isFinite (d + 1) 0 twoPi_facts.1 (fromNat_exact (n := k) (by omega)).1,
    div_fromNat_two_pow _ hfin (by omega), div_fromNat_two_pow _ hfin (by omega)]

/-- The angle of entry k, with the division before or after the product. -/
theorem angle_eq_mul {k m : Nat} (hm : m ≤ 10) (hk : k < 512) :
    div 0 (mul 0 (mul 0 (fromNat 2) pi) (fromNat k)) (fromNat (2 ^ m)) =
      mul 0 (fromNat k) (div 0 (mul 0 (fromNat 2) pi) (fromNat (2 ^ m))) := by
  have hpi := twoPi_facts
  have hkfin := (fromNat_exact (n := k) (by omega)).1
  have hsmall {t : ℤ} (ht : t ≤ 0) : (2 : ℝ) ^ t ≤ 1 := zpow_le_one_of_nonpos₀ one_le_two ht
  rcases Nat.eq_zero_or_pos k with rfl | hpos
  · have hquot := isFinite_div_two_pow 0 hpi.1 (j := m) (by omega)
    have hsign : sign (div 0 (mul 0 (fromNat 2) pi) (fromNat (2 ^ m))) = false := by
      rw [div_fromNat_two_pow 0 hpi.1 (by omega), sign_round]
      decide +kernel
    have hprod : mul 0 (mul 0 (fromNat 2) pi) (fromNat 0) = zero := by decide +kernel
    rw [hprod, div_fromNat_two_pow 0 isFinite_zero (by omega), mul_of_isFinite 0 hkfin hquot, hsign, fromNat_zero_eq,
      significand_of_isZero (by decide), Nat.zero_mul, round_zero, round_zero]
    rfl
  obtain ⟨hfin, hval, hexact⟩ := twoPi_mul_facts hpos hk
  rw [mul_comm_of_isFinite 0 0 hpi.1 hkfin] at hfin hval ⊢
  have hj : (m : ℤ) ≤ 10 := by exact_mod_cast hm
  refine mul_div_two_pow 0 0 0 0 hkfin hpi.1 (by omega) hfin ?_ ?_ ?_
  · exact (hsmall (by omega)).trans (le_abs.2 (.inl (by linarith)))
  · exact (hsmall (by omega)).trans (le_abs.2 (.inl (by linarith)))
  · have hpow : (2 : ℝ) ^ m ≤ 2 ^ 10 := pow_le_pow_right₀ one_le_two hm
    rw [hpi.2, value_pi, abs_of_pos (by positivity), le_div_iff₀ (by positivity)]
    calc (2 : ℝ) ^ (-1022 : ℤ) * 2 ^ m ≤ 2 ^ (-10 : ℤ) * 2 ^ 10 := by
          gcongr
          · norm_num
          · norm_num
      _ ≤ 2 * (7074237752028440 / 2 ^ 51) := by norm_num

theorem angle_zero {m : Nat} (hm : m ≤ 10) :
    div 0 (mul 0 (mul 0 (fromNat 2) pi) (fromNat 0)) (fromNat (2 ^ m)) = zero := by
  have hprod : mul 0 (mul 0 (fromNat 2) pi) (fromNat 0) = zero := by decide +kernel
  rw [hprod, div_fromNat_two_pow 0 isFinite_zero (by omega), significand_of_isZero (by decide), round_zero]
  rfl

/-- Settles O43: the entries are those the loop writes, their angles are finite, and the division by N is exact. -/
theorem hartleyTableEntries : Obligations.HartleyTableEntries := by
  intro m w hm hC hS hmax n t ang
  have hm10 : m ≤ 10 := hmax
  have hn : n ≤ 1024 := Nat.pow_le_pow_right two_pos hm10
  have hpos : 0 < n / 2 := Nat.div_pos (Nat.pow_le_pow_right two_pos hm) two_pos
  have hentry {k : Nat} (hk : k < n / 2) :
      t.regs.htC[k]? = some (coreNum.cos (ang k)) ∧ t.regs.htS[k]? = some (coreNum.sin (ang k)) := by
    obtain ⟨hc, hs⟩ := hartleyTable_entry coreNum n w hk
    rw [tableAngle_coreNum _ hm10 (by omega)] at hc hs
    rw [List.getElem?_eq_getElem (hk.trans_le hC)] at hc
    rw [List.getElem?_eq_getElem (hk.trans_le hS)] at hs
    exact ⟨hc, hs⟩
  have hframe : w.regs.FhtFrame (n / 2) t.regs :=
    hartleyTable_fhtFrame coreNum n
      ⟨fun _ _ => rfl, fun _ _ => rfl, rfl, rfl, rfl, rfl, rfl, rfl, rfl, rfl, rfl, rfl⟩
  have hzero : ang 0 = zero := angle_zero hm10
  obtain ⟨hsin0, hcos0, -⟩ := sineAndCosineProperties Config.sinRaw Config.cosRaw zero
  refine ⟨fun k hk => hentry hk, ?cos, ?sin, fun k hk => ⟨hframe.htC k hk, hframe.htS k hk⟩, fun k hk => ⟨?finite, ?_⟩,
    hartleyTable_mem w coreNum n, ?regs⟩
  case cos =>
    rw [(hentry hpos).1, hzero]
    exact congrArg some hcos0
  case sin =>
    rw [(hentry hpos).2, hzero]
    exact congrArg some hsin0
  case finite =>
    refine isFinite_div_two_pow 0 ?_ (by omega)
    rcases Nat.eq_zero_or_pos k with rfl | hk0
    · decide +kernel
    · exact (twoPi_mul_facts hk0 (by omega)).1
  case regs =>
    exact forStride_keeps (body := tableEntry coreNum n)
      (P := fun v : Work Memory F64 => v.regs = { w.regs with htC := v.regs.htC, htS := v.regs.htS, k := v.regs.k })
      (fun k v hv => by
        rw [tableEntry]
        dsimp only
        rw [hv]) (n / 2) 0 w rfl
  exact angle_eq_mul hm10 (by omega)

end Sys2Proof.Machine
end

section
/-! PROOFS. The reference transforms (48_reference_functions): the lengths they take, their direct sums, and the
orthogonality of the exponentials that both round trips rest on. -/

namespace Sys2Proof.Machine

/-! ### The lengths -/

theorem naiveDftAccepts_iff (n : Nat) : naiveDftAccepts n = true ↔ 2 ≤ n ∧ ∃ m, n = 2 ^ m := by
  rw [naiveDftAccepts, Bool.and_eq_true, decide_eq_true_iff, ispow2_iff]

theorem naiveDft_of_accepts {n : Nat} (h : naiveDftAccepts n = true) (dir : Direction) (x : Nat → ℂ) :
    naiveDft dir n x = .ok (dftSum dir n x) := if_pos h

theorem naiveDft_of_not_accepts {n : Nat} (h : ¬ naiveDftAccepts n = true) (dir : Direction) (x : Nat → ℂ) :
    naiveDft dir n x = .error .invalidLength := if_neg h

/-! ### The exponentials -/

/-- The factor exp(−d·2πi·e/L) of the transform of length L in direction d. -/
noncomputable def dftRoot (dir : Direction) (L e : Nat) : ℂ :=
  Complex.exp (Complex.I * (dir.d : ℂ) * (-(2 * Real.pi * e / L) : ℂ))

theorem dftRoot_eq_real (dir : Direction) (L e : Nat) :
    dftRoot dir L e = Complex.exp (((dir.d : ℝ) * -(2 * Real.pi * e / L) : ℝ) * Complex.I) := by
  rw [dftRoot]
  congr 1
  push_cast
  ring

/-- The scaling of the transform in a direction. -/
noncomputable def dftScale (dir : Direction) (len : Nat) : ℝ :=
  match dir with
  | .forward => 1
  | .inverse => 1 / len

theorem dftSum_eq (dir : Direction) (len : Nat) (x : Nat → ℂ) (n : Nat) :
    dftSum dir len x n = (dftScale dir len : ℂ) * ∑ k ∈ Finset.range len, x k * dftRoot dir len (n * k) := by
  have hterm (k : Nat) : dftRoot dir len (n * k) =
      Complex.exp (Complex.I * (dir.d : ℂ) * (-(2 * Real.pi * n * k / len) : ℂ)) := by
    rw [dftRoot]
    congr 2
    push_cast
    ring
  simp only [hterm, dftSum]
  cases dir <;> simp [dftScale]

/-- Settles O53: the exponential of an imaginary number by its cosine and sine. -/
theorem referenceTransforms : Obligations.ReferenceTransforms := by
  intro len
  refine ⟨fun dir x hlen => naiveDft_of_not_accepts ?_ dir x, fun dir x htwo hpow => ?dft, fun x hodd => if_neg ?_,
    fun x heven => ⟨dhtSum len x, if_pos ?_, fun i => rfl⟩⟩
  · rw [naiveDftAccepts_iff]
    exact fun ⟨htwo, hpow⟩ => hlen.elim (fun h => absurd htwo (by omega)) fun h => h hpow
  case dft =>
    refine ⟨_, naiveDft_of_accepts ((naiveDftAccepts_iff len).2 ⟨htwo, hpow⟩) dir x, fun n => ?_⟩
    have hangle (k : Nat) : ((dir.d : ℝ) * -(2 * Real.pi * (n * k : Nat) / len) : ℝ) =
        (dir.d : ℝ) * -(2 * Real.pi * n * k / len) := by
      push_cast
      ring
    rw [dftSum_eq, Complex.re_ofReal_mul, Complex.im_ofReal_mul]
    simp only [dftRoot_eq_real, hangle, Complex.re_sum, Complex.im_sum, Complex.mul_re, Complex.mul_im,
      Complex.exp_ofReal_mul_I_re, Complex.exp_ofReal_mul_I_im]
    cases dir <;> exact ⟨rfl, rfl⟩
  · simp [naiveDhtAccepts, hodd]
  · simp [naiveDhtAccepts, heven]

/-! ### Orthogonality -/

/-- The sum of the N-th roots of unity to the power r. -/
theorem sum_exp_eq {N : Nat} (hN : 0 < N) (r : ℤ) :
    ∑ k ∈ Finset.range N, Complex.exp ((2 * Real.pi * r * k / N : ℝ) * Complex.I) =
      if (N : ℤ) ∣ r then (N : ℂ) else 0 := by
  have hN' : (N : ℂ) ≠ 0 := by exact_mod_cast hN.ne'
  have hpi : (Real.pi : ℂ) ≠ 0 := by exact_mod_cast Real.pi_ne_zero
  set z : ℂ := Complex.exp (2 * Real.pi * Complex.I * (r / N)) with hz
  have hterm (k : Nat) : Complex.exp ((2 * Real.pi * r * k / N : ℝ) * Complex.I) = z ^ k := by
    rw [hz, ← Complex.exp_nat_mul]
    congr 1
    push_cast
    ring
  have hpow : z ^ N = 1 := by
    rw [hz, ← Complex.exp_nat_mul, Complex.exp_eq_one_iff]
    exact ⟨r, by field_simp⟩
  have hone : z = 1 ↔ (N : ℤ) ∣ r := by
    rw [hz, Complex.exp_eq_one_iff]
    constructor
    · rintro ⟨c, hc⟩
      refine ⟨c, ?_⟩
      have : (r : ℂ) = N * c := by
        have h2 : (2 * Real.pi * Complex.I : ℂ) ≠ 0 := Complex.two_pi_I_ne_zero
        rw [mul_comm (c : ℂ)] at hc
        have := mul_left_cancel₀ h2 hc
        rw [div_eq_iff hN'] at this
        rw [this, mul_comm]
      exact_mod_cast this
    · rintro ⟨c, rfl⟩
      refine ⟨c, ?_⟩
      push_cast
      field_simp
  simp only [hterm]
  split
  next hdvd => simp [hone.2 hdvd]
  next hdvd =>
    have hne : z - 1 ≠ 0 := sub_ne_zero.2 fun h => hdvd (hone.1 h)
    have := mul_geom_sum z N
    rw [hpow, sub_self] at this
    exact (mul_eq_zero.1 this).resolve_left hne

end Sys2Proof.Machine
end

section
/-! PROOFS. FFT.FWD and FFT.INV in exact arithmetic (42_fft R117): every stage joins pairs of transforms of half the
length, so the stages compute the discrete Fourier transform. -/

namespace Sys2Proof.Machine

/-! ### Sums over even and odd indices -/

theorem sum_range_two_mul {R : Type} [AddCommMonoid R] (f : Nat → R) (L : Nat) :
    ∑ k ∈ Finset.range (2 * L), f k =
      ∑ k ∈ Finset.range L, f (2 * k) + ∑ k ∈ Finset.range L, f (2 * k + 1) := by
  induction L with
  | zero => simp
  | succ L ih =>
    rw [Nat.mul_succ, Finset.sum_range_succ, Finset.sum_range_succ, ih, Finset.sum_range_succ _ L,
      Finset.sum_range_succ _ L]
    abel

/-! ### Pairs (k, k + s) of a stage -/

section Pairs

variable {R : Type} [AddCommGroup R]

/-- Each pair (k, k + s) of D, k in the first half of a block of 2s, replaced by its sum and its difference with P k. -/
def combined (s : Nat) (D P : Nat → R) (k : Nat) : R :=
  if k % (2 * s) < s then D k + P k else D (k - s) - P (k - s)

/-- The values C below n are those of T where done, and those of D elsewhere. -/
def ReplacedWhere (n : Nat) (D T : Nat → R) (done : Nat → Prop) (C : Nat → R) : Prop :=
  ∀ k, k < n → (done k → C k = T k) ∧ (¬ done k → C k = D k)

variable {n s : Nat} {D P T C C' : Nat → R} {done done' : Nat → Prop}

omit [AddCommGroup R] in
theorem ReplacedWhere.start (h : ∀ k, ¬ done k) : ReplacedWhere n D T done D :=
  fun k _ => ⟨fun hk => absurd hk (h k), fun _ => rfl⟩

omit [AddCommGroup R] in
theorem ReplacedWhere.congr (h : ReplacedWhere n D T done C) (hdone : ∀ k, k < n → (done' k ↔ done k)) :
    ReplacedWhere n D T done' C := fun k hk => by
  rw [hdone k hk]
  exact h k hk

omit [AddCommGroup R] in
/-- Replacing two more. -/
theorem ReplacedWhere.two (h : ReplacedWhere n D T done C) {p q : Nat}
    (hC : ∀ k, k < n → C' k = if k = p then T p else if k = q then T q else C k) :
    ReplacedWhere n D T (fun k => done k ∨ k = p ∨ k = q) C' := by
  intro k hk
  rw [hC k hk]
  by_cases hkp : k = p
  · subst hkp
    simp
  by_cases hkq : k = q
  · subst hkq
    simp [hkp]
  · simpa [hkp, hkq] using h k hk

theorem combined_first {k : Nat} (h : k % (2 * s) < s) : combined s D P k = D k + P k := if_pos h

theorem combined_second {k : Nat} (h : k % (2 * s) < s) : combined s D P (k + s) = D k - P k := by
  have hsecond : ¬ (k + s) % (2 * s) < s := by
    rw [Nat.add_mod, Nat.mod_eq_of_lt (show s < 2 * s by omega), Nat.mod_eq_of_lt (by omega)]
    omega
  rw [combined, if_neg hsecond, Nat.add_sub_cancel]

/-- The elements of group g of a stage, pair by pair. -/
theorem mem_group_pair {k g i : Nat} (hg : g < s) :
    k % s = g ∧ k / (2 * s) = i ↔ k = g + i * (2 * s) ∨ k = g + i * (2 * s) + s := by
  have hmod : k % (2 * s) = k % s + s * (k / s % 2) := by rw [Nat.mul_comm 2 s, Nat.mod_mul]
  have hsplit := Nat.div_add_mod k (2 * s)
  constructor
  · rintro ⟨rfl, rfl⟩
    rw [Nat.mul_comm] at hsplit
    rcases Nat.mod_two_eq_zero_or_one (k / s) with h | h <;> rw [h] at hmod <;> omega
  · have hassoc : i * (2 * s) = 2 * i * s := by ring
    have hassoc' : i * (2 * s) = 2 * s * i := Nat.mul_comm _ _
    rintro (rfl | rfl)
    · constructor
      · rw [hassoc, Nat.add_mul_mod_self_right, Nat.mod_eq_of_lt hg]
      · rw [hassoc', Nat.add_mul_div_left _ _ (by omega), Nat.div_eq_of_lt (by omega), Nat.zero_add]
    · constructor
      · rw [hassoc, Nat.add_mod_right, Nat.add_mul_mod_self_right, Nat.mod_eq_of_lt hg]
      · rw [Nat.add_right_comm, hassoc', Nat.add_mul_div_left _ _ (by omega), Nat.div_eq_of_lt (by omega), Nat.zero_add]

end Pairs

/-! ### The factors and the transforms of all lengths -/

theorem dftRoot_add (dir : Direction) (L a b : Nat) : dftRoot dir L (a + b) = dftRoot dir L a * dftRoot dir L b := by
  rw [dftRoot, dftRoot, dftRoot, ← Complex.exp_add]
  congr 1
  push_cast
  ring

theorem dftRoot_zero (dir : Direction) (L : Nat) : dftRoot dir L 0 = 1 := by simp [dftRoot]

theorem dftRoot_self (dir : Direction) {L : Nat} (hL : 0 < L) : dftRoot dir L L = 1 := by
  have hL' : (L : ℂ) ≠ 0 := by exact_mod_cast hL.ne'
  rw [dftRoot, mul_div_cancel_right₀ _ hL', Complex.exp_eq_one_iff]
  cases dir
  · exact ⟨-1, by simp [Direction.d]; ring⟩
  · exact ⟨1, by simp [Direction.d]; ring⟩

/-- Half a turn. -/
theorem dftRoot_half (dir : Direction) {L : Nat} (hL : 0 < L) : dftRoot dir (2 * L) L = -1 := by
  have hL' : (L : ℂ) ≠ 0 := by exact_mod_cast hL.ne'
  have hangle : Complex.I * (dir.d : ℂ) * (-(2 * Real.pi * L / (2 * L : Nat)) : ℂ) =
      -(dir.d : ℂ) * (Real.pi * Complex.I) := by
    push_cast
    field_simp
  rw [dftRoot, hangle]
  cases dir
  · simp [Direction.d, Complex.exp_neg, Complex.exp_pi_mul_I]
  · simp [Direction.d, Complex.exp_pi_mul_I]

theorem dftRoot_two_mul (dir : Direction) (L e : Nat) : dftRoot dir (2 * L) (2 * e) = dftRoot dir L e := by
  rw [dftRoot, dftRoot]
  push_cast
  rw [mul_left_comm, mul_div_mul_left _ _ two_ne_zero]

theorem dftRoot_mul_period (dir : Direction) {L : Nat} (hL : 0 < L) (c : Nat) : dftRoot dir L (c * L) = 1 := by
  induction c with
  | zero => rw [Nat.zero_mul, dftRoot_zero]
  | succ c ih => rw [Nat.succ_mul, dftRoot_add, ih, dftRoot_self dir hL, one_mul]

theorem dftRoot_mod (dir : Direction) {L : Nat} (hL : 0 < L) (e : Nat) : dftRoot dir L (e % L) = dftRoot dir L e := by
  conv_rhs => rw [← Nat.div_add_mod e L, dftRoot_add, Nat.mul_comm, dftRoot_mul_period dir hL, one_mul]

/-- The unscaled transform of length L at output index j. -/
noncomputable def dft (dir : Direction) (L : Nat) (f : Nat → ℂ) (j : Nat) : ℂ :=
  ∑ k ∈ Finset.range L, f k * dftRoot dir L (j * k)

theorem dft_one (dir : Direction) (f : Nat → ℂ) (j : Nat) : dft dir 1 f j = f 0 := by
  simp [dft, dftRoot_zero]

theorem dft_add_period (dir : Direction) {L : Nat} (hL : 0 < L) (f : Nat → ℂ) (j : Nat) :
    dft dir L f (j + L) = dft dir L f j := by
  refine Finset.sum_congr rfl fun k _ => ?_
  rw [Nat.add_mul, dftRoot_add, Nat.mul_comm L, dftRoot_mul_period dir hL, mul_one]

/-- The transform of length 2L from the transforms of the even and of the odd elements. -/
theorem dft_two_mul (dir : Direction) (L : Nat) (f : Nat → ℂ) (j : Nat) :
    dft dir (2 * L) f j =
      dft dir L (fun i => f (2 * i)) j + dftRoot dir (2 * L) j * dft dir L (fun i => f (2 * i + 1)) j := by
  rw [dft, sum_range_two_mul, dft, dft, Finset.mul_sum]
  congr 1
  · refine Finset.sum_congr rfl fun k _ => ?_
    rw [Nat.mul_left_comm, dftRoot_two_mul]
  · refine Finset.sum_congr rfl fun k _ => ?_
    rw [Nat.mul_succ, dftRoot_add, Nat.mul_left_comm, dftRoot_two_mul]
    ring

/-! ### The subsequences of a stage -/

section Subsequences

variable {R : Type}

/-- The elements of x that DST block k/L holds the transform of, when blocks of length L = 2^t are done. -/
def subsequence (x : Nat → R) (u : Nat) (b : Nat) : Nat → R := fun i => x (rev u b + i * 2 ^ u)

theorem subsequence_even (x : Nat → R) (u b : Nat) :
    subsequence x (u + 1) (2 * b) = fun i => subsequence x u b (2 * i) := funext fun i => by
  rw [subsequence, subsequence, rev_succ, Nat.mul_mod_right, Nat.zero_mul, Nat.zero_add,
    Nat.mul_div_cancel_left _ two_pos, pow_succ]
  congr 2
  ring

theorem subsequence_odd (x : Nat → R) (u b : Nat) :
    subsequence x (u + 1) (2 * b + 1) = fun i => subsequence x u b (2 * i + 1) := funext fun i => by
  rw [subsequence, subsequence, rev_succ, show (2 * b + 1) % 2 = 1 by omega, show (2 * b + 1) / 2 = b by omega,
    pow_succ]
  congr 1
  ring

theorem subsequence_whole (x : Nat → R) (b : Nat) : subsequence x 0 b = x := funext fun i => by
  rw [subsequence, rev, pow_zero, Nat.mul_one, Nat.zero_add]

theorem subsequence_single (x : Nat → R) (m b : Nat) : subsequence x m b 0 = x (rev m b) := by
  rw [subsequence, Nat.zero_mul, Nat.add_zero]

end Subsequences

/-- The block of k among blocks of length s, from its place in the blocks of length 2s. -/
theorem div_of_first_half {k s : Nat} (h : k % (2 * s) < s) :
    k / s = 2 * (k / (2 * s)) ∧ (k + s) / s = 2 * (k / (2 * s)) + 1 := by
  have hs : 0 < s := by omega
  have hmod : k % (2 * s) = k % s + s * (k / s % 2) := by rw [Nat.mul_comm 2 s, Nat.mod_mul]
  have heven : k / s % 2 = 0 := (Nat.mod_two_eq_zero_or_one _).resolve_right fun hodd => by
    rw [hodd] at hmod
    omega
  have hhalf : k / (2 * s) = k / s / 2 := by rw [Nat.div_div_eq_div_mul, Nat.mul_comm]
  rw [Nat.add_div_right _ hs, hhalf]
  omega

theorem add_half_div {k s : Nat} (h : k % (2 * s) < s) : (k + s) / (2 * s) = k / (2 * s) := by
  have hsplit := Nat.div_add_mod k (2 * s)
  rw [show k + s = k % (2 * s) + s + 2 * s * (k / (2 * s)) by omega, Nat.add_mul_div_left _ _ (by omega),
    Nat.div_eq_of_lt (by omega), Nat.zero_add]

theorem add_half_lt {k s n : Nat} (h : k % (2 * s) < s) (hn : 2 * s ∣ n) (hk : k < n) : k + s < n := by
  obtain ⟨c, rfl⟩ := hn
  have hsplit := Nat.div_add_mod k (2 * s)
  have hle := Nat.mul_le_mul_left (2 * s) (Nat.succ_le_of_lt (Nat.div_lt_of_lt_mul hk))
  rw [Nat.mul_succ] at hle
  omega

/-- The first element of the pair of a second one. -/
theorem sub_half {k s : Nat} (hs : 0 < s) (h : ¬ k % (2 * s) < s) : ∃ j, k = j + s ∧ j % (2 * s) < s := by
  have hlt := Nat.mod_lt k (show 2 * s > 0 by omega)
  have hle := Nat.mod_le k (2 * s)
  refine ⟨k - s, by omega, ?_⟩
  have hsplit := Nat.div_add_mod k (2 * s)
  rw [show k - s = k % (2 * s) - s + 2 * s * (k / (2 * s)) by omega, Nat.add_mul_mod_self_left,
    Nat.mod_eq_of_lt (by omega)]
  omega

/-- The transforms of the subsequences of blocks of length s, combined by the factors, are those of length 2s. -/
theorem combined_dft (dir : Direction) {s : Nat} (hs : 0 < s) (x : Nat → ℂ) (u : Nat) {D P : Nat → ℂ} {n : Nat}
    (hD : ∀ k, k < n → D k = dft dir s (subsequence x (u + 1) (k / s)) k)
    (hP : ∀ k, k + s < n → k % (2 * s) < s → P k = dftRoot dir (2 * s) (k % (2 * s)) * D (k + s)) (hn : 2 * s ∣ n)
    {k : Nat} (hk : k < n) : combined s D P k = dft dir (2 * s) (subsequence x u (k / (2 * s))) k := by
  have hpair {j : Nat} (hj : j + s < n) (hfirst : j % (2 * s) < s) :
      D j = dft dir s (fun i => subsequence x u (j / (2 * s)) (2 * i)) j ∧
      P j = dftRoot dir (2 * s) j * dft dir s (fun i => subsequence x u (j / (2 * s)) (2 * i + 1)) j := by
    obtain ⟨hdiv, hdiv'⟩ := div_of_first_half hfirst
    rw [hP j hj hfirst, hD j (by omega), hD (j + s) hj, hdiv, hdiv', dft_add_period dir hs,
      dftRoot_mod dir (by omega), subsequence_even, subsequence_odd]
    exact ⟨rfl, rfl⟩
  by_cases hfirst : k % (2 * s) < s
  · obtain ⟨hDk, hPk⟩ := hpair (add_half_lt hfirst hn hk) hfirst
    rw [combined_first hfirst, hDk, hPk, dft_two_mul]
  · obtain ⟨j, rfl, hj⟩ := sub_half hs hfirst
    obtain ⟨hDj, hPj⟩ := hpair hk hj
    rw [combined_second hj, hDj, hPj, add_half_div hj, dft_two_mul, dft_add_period dir hs,
      dft_add_period dir hs, dftRoot_add, dftRoot_half dir hs]
    ring

/-! ### The butterflies (42_fft R110) -/

section Stages

variable {M : Type} {e : Env M ℝ} {n : Nat}

/-- The element k of DST as a complex number. -/
def Env.complexAt (e : Env M ℝ) (m : M) (k : Nat) : ℂ := ⟨e.dst m k .re, e.dst m k .im⟩

/-- The rotation factor as a complex number. -/
def Regs.factor (r : Regs ℝ) : ℂ := ⟨r.twRe, r.twIm⟩

variable (hnum : e.num = exactNum) (he : e.ReadsStores n)
include hnum he

theorem complexAt_bfly {p q k : Nat} (hp : p < n) (hq : q < n) (hk : k < n) (w : Work M ℝ) :
    e.complexAt (bfly e p q w).mem k =
      if k = p then e.complexAt w.mem p + w.regs.factor * e.complexAt w.mem q
      else if k = q then e.complexAt w.mem p - w.regs.factor * e.complexAt w.mem q
      else e.complexAt w.mem k := by
  simp only [Env.complexAt, dst_bfly he hp hq hk]
  split
  · simp only [bflySum, bflyProduct, laneOf, hnum]
    refine Complex.ext ?_ ?_
    · simp [exactNum, Regs.factor]
    · simp [exactNum, Regs.factor]
  · split
    · simp only [bflyDifference, bflyProduct, laneOf, hnum]
      refine Complex.ext ?_ ?_
      · simp [exactNum, Regs.factor]
      · simp [exactNum, Regs.factor]
    · rfl

/-- The product of a butterfly of the stage: the old second element turned by the group's factor. -/
noncomputable def stageProduct (dir : Direction) (s : Nat) (D : Nat → ℂ) (k : Nat) : ℂ :=
  dftRoot dir (2 * s) (k % (2 * s)) * D (k + s)

/-- The elements after a stage from the elements D before it. -/
noncomputable def staged (dir : Direction) (s : Nat) (D : Nat → ℂ) : Nat → ℂ := combined s D (stageProduct dir s D)

omit hnum he in
theorem Regs.Turning.factor_eq {r : Regs ℝ} {dir : Direction} {s g : Nat}
    (h : r.Turning (-(dir.d * Real.pi) / s) (g * (-(dir.d * Real.pi) / s))) : r.factor = dftRoot dir (2 * s) g := by
  have hangle : ((dir.d : ℝ) * -(2 * Real.pi * g / (2 * s : Nat)) : ℝ) = g * (-(dir.d * Real.pi) / s) := by
    push_cast
    rw [mul_assoc 2, mul_div_mul_left _ _ two_ne_zero]
    ring
  rw [dftRoot_eq_real, hangle]
  refine Complex.ext ?_ ?_
  · rw [Complex.exp_ofReal_mul_I_re]
    exact h.twRe
  · rw [Complex.exp_ofReal_mul_I_im]
    exact h.twIm

/-- A group of a stage combines its pairs. -/
theorem replacedWhere_pairs {dir : Direction} {s g : Nat} (hg : g < s) (hn : 2 * s ∣ n) {D : Nat → ℂ} {w : Work M ℝ}
    (hfactor : w.regs.factor = dftRoot dir (2 * s) g)
    (hw : ReplacedWhere n D (staged dir s D) (fun k => k % s < g) (e.complexAt w.mem)) :
    ReplacedWhere n D (staged dir s D) (fun k => k % s < g + 1)
      (e.complexAt (forStride (2 * s) (stagePair e s) (n / (2 * s)) g w).mem) := by
  have hloop := forStride_induction (body := stagePair e s) (stride := 2 * s) (i := g) (w := w)
    (P := fun i (v : Work M ℝ) => v.regs.factor = w.regs.factor ∧
      ReplacedWhere n D (staged dir s D) (fun k => k % s < g ∨ k % s = g ∧ k / (2 * s) < i) (e.complexAt v.mem))
    (n / (2 * s))
    ⟨rfl, hw.congr fun k _ => by simp⟩ fun i v hi ⟨hv, ih⟩ => ⟨hv, ?_⟩
  · refine hloop.2.congr fun k hk => ?_
    have hdiv : k / (2 * s) < n / (2 * s) := Nat.div_lt_div_of_lt_of_dvd hn hk
    simp only [hdiv, and_true, Nat.lt_succ_iff_lt_or_eq]
  have hp := stage_pair_lt hg hi
  set p := g + i * (2 * s) with hpdef
  have hpmod : p % (2 * s) = g := by rw [hpdef, Nat.add_mul_mod_self_right, Nat.mod_eq_of_lt (by omega)]
  have hold {k : Nat} (hk : k = p ∨ k = p + s) (hkn : k < n) : e.complexAt v.mem k = D k := by
    obtain ⟨hkmod, hkdiv⟩ := (mem_group_pair (k := k) hg).2 hk
    exact (ih k hkn).2 (by omega)
  have hfirst : p % (2 * s) < s := by omega
  refine (ih.two (p := p) (q := p + s) fun k hk => ?_).congr fun k _ => ?_
  · rw [staged, combined_first hfirst, combined_second hfirst, ← hold (.inl rfl) (by omega), stageProduct,
      ← hold (.inr rfl) hp, hpmod, ← hfactor, ← hv]
    exact complexAt_bfly hnum he (by omega) hp hk v
  · rw [← mem_group_pair hg]
    omega

omit hnum he in
theorem pairs_turning {s i count : Nat} {δ φ : ℝ} {w : Work M ℝ} (h : w.regs.Turning δ φ) :
    (forStride (2 * s) (stagePair e s) count i w).regs.Turning δ φ :=
  forStride_keeps (P := fun v : Work M ℝ => v.regs.Turning δ φ) (body := stagePair e s)
    (fun _ _ hv => ⟨hv.mulRe, hv.mulIm, hv.twRe, hv.twIm⟩) count i w h

/-- A stage combines all its pairs (42_fft R111, R112). -/
theorem complexAt_stage (dir : Direction) {s : Nat} (hs : 0 < s) (hn : 2 * s ∣ n) (w : Work M ℝ) {k : Nat}
    (hk : k < n) :
    e.complexAt (stage e dir n s w).mem k = staged dir s (e.complexAt w.mem) k := by
  have hloop := forStride_induction (body := stageGroup e n s) (stride := 1) (i := 0)
    (w := twInit e.num (twSetup e.num dir s w))
    (P := fun g (v : Work M ℝ) => v.regs.Turning (-(dir.d * Real.pi) / s) (g * (-(dir.d * Real.pi) / s)) ∧
      ReplacedWhere n (e.complexAt w.mem) (staged dir s (e.complexAt w.mem)) (fun k => k % s < g) (e.complexAt v.mem)) s
    ⟨?_, .start fun _ => Nat.not_lt_zero _⟩ fun g v hg ⟨hturn, hv⟩ => ?_
  · exact (hloop.2 k hk).1 (Nat.mod_lt k hs)
  · rw [hnum, Nat.cast_zero, zero_mul]
    exact twSetup_exactNum_turning dir s w
  · rw [Nat.zero_add, Nat.mul_one]
    have henter : (stageGroupEnter g v).regs.Turning (-(dir.d * Real.pi) / s) (g * (-(dir.d * Real.pi) / s)) :=
      ⟨hturn.mulRe, hturn.mulIm, hturn.twRe, hturn.twIm⟩
    refine ⟨?_, replacedWhere_pairs hnum he hg hn (w := stageGroupEnter g v) henter.factor_eq hv⟩
    rw [stageGroup, hnum, Nat.cast_succ, add_one_mul]
    exact twAdv_exactNum_turning (pairs_turning henter)

/-- The stages on a sequence in bit-reversed order compute its transform. -/
theorem complexAt_fftCore (dir : Direction) {m : Nat} (hm : n = 2 ^ m) {x : Nat → ℂ} {w : Work M ℝ}
    (hw : ∀ k, k < n → e.complexAt w.mem k = x (rev m k)) {k : Nat} (hk : k < n) :
    e.complexAt (fftCore e dir n w).mem k = dft dir n x k := by
  subst hm
  have hloop := forStride_induction (body := fun t => stage e dir (2 ^ m) (2 ^ t)) (stride := 1) (i := 0)
    (w := setStep 1 w) (P := fun t (v : Work M ℝ) => ∀ k, k < 2 ^ m →
      e.complexAt v.mem k = dft dir (2 ^ t) (subsequence x (m - t) (k / 2 ^ t)) k) m (fun k hk => ?start)
    fun t v ht hv k hk => ?stage
  case start =>
    rw [pow_zero, dft_one, subsequence_single, Nat.div_one]
    exact hw k hk
  case stage =>
    have hdvd : 2 * 2 ^ t ∣ 2 ^ m := by
      rw [← pow_succ']
      exact Nat.pow_dvd_pow 2 ht
    rw [Nat.zero_add, Nat.mul_one, complexAt_stage hnum he dir (Nat.two_pow_pos t) hdvd v hk, pow_succ']
    refine combined_dft dir (Nat.two_pow_pos t) x (m - (t + 1)) (fun k hk => ?_) (fun _ _ _ => rfl) hdvd hk
    rw [hv k hk, show m - (t + 1) + 1 = m - t by omega]
  · have hend := hloop k hk
    rw [Nat.sub_self, Nat.div_eq_of_lt hk] at hend
    rw [fftCore, Nat.log2_two_pow, hend, subsequence_whole]

/-- The scaling in exact arithmetic (42_fft R113). -/
theorem complexAt_scaleN (w : Work M ℝ) {k : Nat} (hk : k < n) :
    e.complexAt (scaleN e n w).mem k = ((1 / n : ℝ) : ℂ) * e.complexAt w.mem k := by
  have hlane (l : Lane) : e.dst (scaleN e n w).mem k l = 1 / n * e.dst w.mem k l := by
    obtain ⟨d, hd⟩ := dst_scaleN he le_rfl w hk l
    rw [hd, hnum, one_div_mul_eq_div]
    rfl
  refine Complex.ext ?_ ?_
  · rw [Complex.re_ofReal_mul]
    exact hlane .re
  · rw [Complex.im_ofReal_mul]
    exact hlane .im

end Stages

/-! ### The commands on a bare sequence -/

section Sequence

variable (x : Nat → ℝ × ℝ) (regs : Regs ℝ) (m : Nat)

theorem complexAt_fftCore_sequence (dir : Direction) {k : Nat} (hk : k < 2 ^ m) :
    let e := sequenceEnv exactNum x
    e.complexAt (fftCore e dir (2 ^ m) (permute e (2 ^ m) (copyIn e false (2 ^ m) ⟨x, regs, 0⟩))).mem k =
      dft dir (2 ^ m) (fun j => toComplex (x j)) k := by
  intro e
  have he : e.ReadsStores (2 ^ m) := sequenceEnv_readsStores exactNum x (2 ^ m)
  refine complexAt_fftCore rfl he dir rfl (fun j hj => ?_) hk
  rw [Env.complexAt, dst_permute_copyIn he false le_rfl hj, dst_permute_copyIn he false le_rfl hj]
  rfl

theorem toComplex_fftForward {k : Nat} (hk : k < 2 ^ m) :
    toComplex (resultOf exactNum regs fftForward (2 ^ m) x k) =
      dft .forward (2 ^ m) (fun j => toComplex (x j)) k :=
  complexAt_fftCore_sequence x regs m .forward hk

theorem toComplex_fftInverse {k : Nat} (hk : k < 2 ^ m) :
    toComplex (resultOf exactNum regs fftInverse (2 ^ m) x k) =
      ((1 / (2 ^ m : Nat) : ℝ) : ℂ) * dft .inverse (2 ^ m) (fun j => toComplex (x j)) k :=
  (complexAt_scaleN (e := sequenceEnv exactNum x) rfl (sequenceEnv_readsStores exactNum x (2 ^ m)) _ hk).trans
    (congrArg _ (complexAt_fftCore_sequence x regs m .inverse hk))

end Sequence

theorem two_pow_accepted {m : Nat} (hm : 1 ≤ m) : naiveDftAccepts (2 ^ m) = true :=
  (naiveDftAccepts_iff _).2 ⟨Nat.le_self_pow (by omega) 2, m, rfl⟩

/-- Settles O54: the stages join transforms of half the length. -/
theorem exactFftIsDft : Obligations.ExactFftIsDft := by
  intro m regs x hm
  have hlen := two_pow_accepted hm
  refine ⟨_, _, naiveDft_of_accepts hlen .forward _, naiveDft_of_accepts hlen .inverse _,
    fun k hk => ⟨?_, (toComplex_fftInverse x regs m hk).trans (dftSum_eq .inverse _ _ k).symm⟩⟩
  rw [toComplex_fftForward x regs m hk, dftSum_eq, dftScale, Complex.ofReal_one, one_mul, dft]

/-! ### The round trip -/

theorem dvd_sub_iff_eq {N i k : Nat} (hi : i < N) (hk : k < N) : (N : ℤ) ∣ (k : ℤ) - i ↔ i = k := by
  constructor
  · intro h
    have := Int.eq_zero_of_abs_lt_dvd h (by rw [abs_lt]; omega)
    omega
  · rintro rfl
    simp

theorem dftRoot_inverse_mul_forward (N i j k : Nat) :
    dftRoot .forward N (j * i) * dftRoot .inverse N (k * j) =
      Complex.exp ((2 * Real.pi * ((k : ℤ) - i : ℤ) * j / N : ℝ) * Complex.I) := by
  rw [dftRoot_eq_real, dftRoot_eq_real, ← Complex.exp_add, ← add_mul, ← Complex.ofReal_add]
  congr 3
  push_cast [Direction.d]
  ring

theorem dft_inverse_dft_forward {N : Nat} (x : Nat → ℂ) {k : Nat} (hk : k < N) :
    dft .inverse N (dft .forward N x) k = N * x k := by
  calc dft .inverse N (dft .forward N x) k
      = ∑ j ∈ Finset.range N, ∑ i ∈ Finset.range N, x i *
          Complex.exp ((2 * Real.pi * ((k : ℤ) - i : ℤ) * j / N : ℝ) * Complex.I) := by
        simp only [dft, Finset.sum_mul, mul_assoc, dftRoot_inverse_mul_forward]
    _ = ∑ i ∈ Finset.range N, x i * if (N : ℤ) ∣ (k : ℤ) - i then (N : ℂ) else 0 := by
        rw [Finset.sum_comm]
        simp only [← Finset.mul_sum, sum_exp_eq (Nat.zero_lt_of_lt hk)]
    _ = ∑ i ∈ Finset.range N, if i = k then x i * N else 0 :=
        Finset.sum_congr rfl fun i hi => by
          rw [mul_ite, mul_zero]
          exact if_congr (dvd_sub_iff_eq (Finset.mem_range.1 hi) hk) rfl rfl
    _ = N * x k := by rw [Finset.sum_ite_eq', if_pos (Finset.mem_range.2 hk), mul_comm]

theorem toComplex_injective : Function.Injective toComplex := fun _ _ h =>
  Prod.ext (congrArg Complex.re h) (congrArg Complex.im h)

/-- Settles O55: by the orthogonality of the exponentials. -/
theorem exactInverseUndoesForward : Obligations.ExactInverseUndoesForward := by
  intro m regs regs' x _ k hk
  have hN : ((2 ^ m : Nat) : ℂ) ≠ 0 := by exact_mod_cast (Nat.two_pow_pos m).ne'
  have hforward : dft .inverse (2 ^ m) (fun j => toComplex (resultOf exactNum regs fftForward (2 ^ m) x j)) k =
      dft .inverse (2 ^ m) (dft .forward (2 ^ m) fun j => toComplex (x j)) k :=
    Finset.sum_congr rfl fun j hj =>
      congrArg (· * _) (toComplex_fftForward x regs m (Finset.mem_range.1 hj))
  apply toComplex_injective
  rw [toComplex_fftInverse _ regs' m hk, hforward, dft_inverse_dft_forward _ hk, Complex.ofReal_div, Complex.ofReal_one,
    Complex.ofReal_natCast, one_div_mul_eq_div, mul_div_cancel_left₀ _ hN]

end Sys2Proof.Machine
end

section
/-! PROOFS. FHT in exact arithmetic (43_hartley R137, R138): every level of the ladder joins pairs of transforms of half
the length, so the ladder computes the discrete Hartley transform. -/

namespace Sys2Proof.Machine

/-! ### The Hartley kernel and the transforms of all lengths -/

/-- The kernel sin + cos of the Hartley transform of length L at exponent a. -/
noncomputable def cas (L a : Nat) : ℝ := Real.sin (2 * Real.pi * a / L) + Real.cos (2 * Real.pi * a / L)

theorem cas_add_mul (L a c : Nat) (hL : 0 < L) : cas L (a + c * L) = cas L a := by
  have hL' : (L : ℝ) ≠ 0 := by exact_mod_cast hL.ne'
  have hangle : 2 * Real.pi * (a + c * L : Nat) / L = 2 * Real.pi * a / L + c * (2 * Real.pi) := by
    push_cast
    field_simp
  rw [cas, cas, hangle, Real.sin_add_nat_mul_two_pi, Real.cos_add_nat_mul_two_pi]

theorem cas_two_mul (L a : Nat) : cas (2 * L) (2 * a) = cas L a := by
  have hangle : 2 * Real.pi * (2 * a : Nat) / (2 * L : Nat) = 2 * Real.pi * a / L := by
    push_cast
    rw [mul_left_comm, mul_div_mul_left _ _ two_ne_zero]
  rw [cas, cas, hangle]

/-- Half a turn. -/
theorem cas_add_half {L : Nat} (a : Nat) (hL : 0 < L) : cas (2 * L) (a + L) = -cas (2 * L) a := by
  have hL' : (L : ℝ) ≠ 0 := by exact_mod_cast hL.ne'
  have hangle : 2 * Real.pi * (a + L : Nat) / (2 * L : Nat) = 2 * Real.pi * a / (2 * L : Nat) + Real.pi := by
    push_cast
    field_simp
  rw [cas, cas, hangle, Real.sin_add_pi, Real.cos_add_pi]
  ring

/-- The kernel at a sum of exponents, the first a multiple i of j ≤ L. -/
theorem cas_add {L j : Nat} (hL : 0 < L) (hj : j ≤ L) (i : Nat) :
    cas (2 * L) (2 * (j * i) + j) =
      cas L (j * i) * Real.cos (Real.pi * j / L) + cas L ((L - j) * i) * Real.sin (Real.pi * j / L) := by
  have hL' : (L : ℝ) ≠ 0 := by exact_mod_cast hL.ne'
  have hsum : 2 * Real.pi * (2 * (j * i) + j : Nat) / (2 * L : Nat) =
      2 * Real.pi * (j * i : Nat) / L + Real.pi * j / L := by
    push_cast
    field_simp
  have hneg : 2 * Real.pi * ((L - j) * i : Nat) / L = -(2 * Real.pi * (j * i : Nat) / L) + i * (2 * Real.pi) := by
    rw [Nat.cast_mul, Nat.cast_sub hj]
    push_cast
    field_simp
    ring
  rw [cas, cas, cas, hsum, hneg, Real.sin_add, Real.cos_add, Real.sin_add_nat_mul_two_pi,
    Real.cos_add_nat_mul_two_pi, Real.sin_neg, Real.cos_neg]
  ring

/-- The unscaled Hartley transform of length L at output index j. -/
noncomputable def dht (L : Nat) (f : Nat → ℝ) (j : Nat) : ℝ := ∑ k ∈ Finset.range L, f k * cas L (j * k)

theorem dht_one (f : Nat → ℝ) (j : Nat) : dht 1 f j = f 0 := by simp [dht, cas]

theorem dht_add_mul {L : Nat} (hL : 0 < L) (f : Nat → ℝ) (j c : Nat) : dht L f (j + c * L) = dht L f j := by
  refine Finset.sum_congr rfl fun k _ => ?_
  rw [Nat.add_mul, Nat.mul_right_comm, cas_add_mul _ _ _ hL]

theorem dht_mod {L : Nat} (hL : 0 < L) (f : Nat → ℝ) (j : Nat) : dht L f (j % L) = dht L f j := by
  conv_rhs => rw [← Nat.mod_add_div j L, Nat.mul_comm L, dht_add_mul hL]

/-- The turned transform of the odd elements, at output index j ≤ L (43 R131). -/
noncomputable def turnedDht (L : Nat) (f : Nat → ℝ) (j : Nat) : ℝ :=
  dht L f j * Real.cos (Real.pi * j / L) + dht L f (L - j) * Real.sin (Real.pi * j / L)

theorem sum_odd_cas {L j : Nat} (hL : 0 < L) (hj : j ≤ L) (f : Nat → ℝ) :
    ∑ k ∈ Finset.range L, f k * cas (2 * L) (2 * (j * k) + j) = turnedDht L f j := by
  rw [turnedDht, dht, dht, Finset.sum_mul, Finset.sum_mul, ← Finset.sum_add_distrib]
  refine Finset.sum_congr rfl fun k _ => ?_
  rw [cas_add hL hj]
  ring

/-- The first half of the transform of length 2L from the transforms of the even and of the odd elements. -/
theorem dht_two_mul {L j : Nat} (hL : 0 < L) (hj : j ≤ L) (f : Nat → ℝ) :
    dht (2 * L) f j = dht L (fun i => f (2 * i)) j + turnedDht L (fun i => f (2 * i + 1)) j := by
  rw [dht, sum_range_two_mul, ← sum_odd_cas hL hj]
  congr 1
  · refine Finset.sum_congr rfl fun k _ => ?_
    rw [Nat.mul_left_comm, cas_two_mul]
  · refine Finset.sum_congr rfl fun k _ => ?_
    rw [Nat.mul_succ, Nat.mul_left_comm]

/-- The second half. -/
theorem dht_two_mul_add {L j : Nat} (hL : 0 < L) (hj : j ≤ L) (f : Nat → ℝ) :
    dht (2 * L) f (j + L) = dht L (fun i => f (2 * i)) j - turnedDht L (fun i => f (2 * i + 1)) j := by
  rw [dht, sum_range_two_mul, ← sum_odd_cas hL hj, sub_eq_add_neg, ← Finset.sum_neg_distrib]
  congr 1
  · refine Finset.sum_congr rfl fun k _ => ?_
    rw [Nat.mul_left_comm, cas_two_mul, Nat.add_mul, Nat.mul_comm L, cas_add_mul _ _ _ hL]
  · refine Finset.sum_congr rfl fun k _ => ?_
    rw [show (j + L) * (2 * k + 1) = 2 * (j * k) + j + L + k * (2 * L) by ring, cas_add_mul _ _ _ (by omega),
      cas_add_half _ hL, mul_neg]

/-! ### The rotated elements of a level -/

/-- The second-half element k of D after the rotations of a level of half s: its partner lies at the mirrored offset. -/
noncomputable def rotated (s : Nat) (D : Nat → ℝ) (k : Nat) : ℝ :=
  D k * Real.cos (Real.pi * (k % s : Nat) / s) + D (k + s - 2 * (k % s)) * Real.sin (Real.pi * (k % s : Nat) / s)

/-- The offsets the rotations leave out are those they would not change. -/
theorem rotated_of_fixed {s k : Nat} (hs : 0 < s) (D : Nat → ℝ) (h : k % s = 0 ∨ 2 * (k % s) = s) :
    rotated s D k = D k := by
  rcases h with h | h
  · simp [rotated, h]
  · have hangle : Real.pi * (k % s : Nat) / s = Real.pi / 2 := by
      have hs' : (s : ℝ) ≠ 0 := by exact_mod_cast hs.ne'
      have hcast : (2 : ℝ) * (k % s : Nat) = s := by exact_mod_cast h
      rw [div_eq_div_iff hs' two_ne_zero, ← hcast]
      ring
    rw [rotated, hangle, h, Nat.add_sub_cancel, Real.cos_pi_div_two, Real.sin_pi_div_two]
    ring

/-- The elements after a level of half s from the elements D before it. -/
noncomputable def leveled (s : Nat) (D : Nat → ℝ) : Nat → ℝ := combined s D fun k => rotated s D (k + s)

theorem mod_of_first_half {s k : Nat} (h : k % (2 * s) < s) : k % (2 * s) = k % s := by
  rw [← Nat.mod_eq_of_lt h, Nat.mod_mul_left_mod]

theorem add_half_mod {s k : Nat} (h : k % (2 * s) < s) : (k + s) % (2 * s) = k % s + s := by
  rw [Nat.add_mod, Nat.mod_eq_of_lt (show s < 2 * s by omega), Nat.mod_eq_of_lt (by omega), mod_of_first_half h]

/-- The pair at the mirrored offset. -/
theorem mirrored {s k : Nat} (hfirst : k % (2 * s) < s) (hpos : 0 < k % s) :
    (k + s - 2 * (k % s)) % (2 * s) < s ∧ (k + s - 2 * (k % s)) / (2 * s) = k / (2 * s) ∧
      k + s - 2 * (k % s) = s - k % s + k / s * s := by
  have hmod := mod_of_first_half hfirst
  have hlt := Nat.mod_lt k (show s > 0 by omega)
  have hsplit := Nat.mod_add_div k (2 * s)
  have hsplit' := Nat.mod_add_div k s
  have hform : k + s - 2 * (k % s) = s - k % s + 2 * s * (k / (2 * s)) := by omega
  refine ⟨?_, ?_, ?_⟩
  · rw [hform, Nat.add_mul_mod_self_left, Nat.mod_eq_of_lt (by omega)]
    omega
  · rw [hform, Nat.add_mul_div_left _ _ (by omega), Nat.div_eq_of_lt (by omega), Nat.zero_add]
  · rw [Nat.mul_comm (k / s)]
    omega

theorem leveled_dht {s : Nat} (hs : 0 < s) (x : Nat → ℝ) (u : Nat) {D : Nat → ℝ} {n : Nat}
    (hD : ∀ k, k < n → D k = dht s (subsequence x (u + 1) (k / s)) k) (hn : 2 * s ∣ n) {k : Nat} (hk : k < n) :
    leveled s D k = dht (2 * s) (subsequence x u (k / (2 * s))) k := by
  have heven {j : Nat} (hj : j + s < n) (hfirst : j % (2 * s) < s) :
      D j = dht s (fun i => subsequence x u (j / (2 * s)) (2 * i)) (j % s) := by
    rw [hD j (by omega), (div_of_first_half hfirst).1, subsequence_even, dht_mod hs]
  have hodd {j : Nat} (hj : j + s < n) (hfirst : j % (2 * s) < s) :
      D (j + s) = dht s (fun i => subsequence x u (j / (2 * s)) (2 * i + 1)) (j % s) := by
    rw [hD (j + s) hj, (div_of_first_half hfirst).2, subsequence_odd, ← dht_mod hs _ (j + s), Nat.add_mod_right]
  have hrotated {j : Nat} (hj : j + s < n) (hfirst : j % (2 * s) < s) :
      rotated s D (j + s) = turnedDht s (fun i => subsequence x u (j / (2 * s)) (2 * i + 1)) (j % s) := by
    rw [rotated, turnedDht, Nat.add_mod_right, hodd hj hfirst]
    congr 1
    rcases Nat.eq_zero_or_pos (j % s) with h | hpos
    · simp [h]
    obtain ⟨hfirst', hblock, hform⟩ := mirrored hfirst hpos
    have hlt : j % s < s := Nat.mod_lt j hs
    have hle := Nat.mod_le j s
    rw [show j + s + s - 2 * (j % s) = j + s - 2 * (j % s) + s by omega,
      hodd (add_half_lt hfirst' hn (by omega)) hfirst', hblock, hform, Nat.add_mul_mod_self_right,
      Nat.mod_eq_of_lt (by omega)]
  have hle {j : Nat} : j % s ≤ s := (Nat.mod_lt j hs).le
  by_cases hfirst : k % (2 * s) < s
  · have hk' := add_half_lt hfirst hn hk
    rw [leveled, combined_first hfirst, heven hk' hfirst, hrotated hk' hfirst, ← dht_two_mul hs hle,
      ← mod_of_first_half hfirst, dht_mod (by omega)]
  · obtain ⟨j, rfl, hj⟩ := sub_half hs hfirst
    rw [leveled, combined_second hj, heven hk hj, hrotated hk hj, ← dht_two_mul_add hs hle, add_half_div hj,
      ← add_half_mod hj, dht_mod (by omega)]

/-! ### The ladder (43_hartley R131 to R134) -/

/-- The table entries below N/2 are the cosines and sines of 2πt/N. -/
def Regs.TablesExact (n : Nat) (r : Regs ℝ) : Prop :=
  ∀ t, t < n / 2 → r.htC[t]? = some (Real.cos (2 * Real.pi * t / n)) ∧ r.htS[t]? = some (Real.sin (2 * Real.pi * t / n))

section Ladder

variable {M : Type} {e : Env M ℝ} {n : Nat}

/-- The real lane of element k of DST. -/
def Env.realAt (e : Env M ℝ) (m : M) (k : Nat) : ℝ := e.dst m k .re

variable (hnum : e.num = exactNum) (he : e.ReadsStores n)
include hnum he

theorem realAt_htRot {x y t k : Nat} {θ : ℝ} (hx : x < n) (hy : y < n) (hk : k < n) {w : Work M ℝ}
    (hc : w.regs.htC[t]? = some (Real.cos θ)) (hs : w.regs.htS[t]? = some (Real.sin θ)) :
    e.realAt (htRot e x y t w).mem k =
      if k = y then e.realAt w.mem x * Real.sin θ - e.realAt w.mem y * Real.cos θ
      else if k = x then e.realAt w.mem x * Real.cos θ + e.realAt w.mem y * Real.sin θ
      else e.realAt w.mem k := by
  rw [htRot_eq e x y hc hs, Env.realAt, Work.spend_mem, dst_putRePair he hx hy hk]
  simp only [and_true, hnum]
  rfl

theorem realAt_htAddSub {x y k : Nat} (hx : x < n) (hy : y < n) (hk : k < n) (w : Work M ℝ) :
    e.realAt (htAddSub e x y w).mem k =
      if k = y then e.realAt w.mem x - e.realAt w.mem y
      else if k = x then e.realAt w.mem x + e.realAt w.mem y
      else e.realAt w.mem k := by
  rw [htAddSub_eq e x y, Env.realAt, Work.spend_mem, dst_putRePair he hx hy hk]
  simp only [and_true, hnum]
  rfl

/-- The rotations of the group of block b of a level of half s done up to offset c, from both ends. -/
def RotatedUpTo (s b c k : Nat) : Prop :=
  k / (2 * s) = b ∧ s ≤ k % (2 * s) ∧ (1 ≤ k % s ∧ k % s ≤ c ∨ s - c ≤ k % s)

omit hnum he in
theorem tableEntry_angle {s i : Nat} (hs : 0 < s) (hn : 2 * s ∣ n) (hpos : 0 < n) :
    2 * Real.pi * (n / (2 * s) * i : Nat) / n = Real.pi * i / s := by
  obtain ⟨c, rfl⟩ := hn
  have hs' : (s : ℝ) ≠ 0 := by exact_mod_cast hs.ne'
  have hc : (c : ℝ) ≠ 0 := by
    rintro h
    simp [Nat.cast_eq_zero.1 h] at hpos
  rw [Nat.mul_div_cancel_left _ (by omega)]
  push_cast
  field_simp

omit hnum he in
theorem ladderRot_mem (s g i j : Nat) (w : Work M ℝ) :
    (ladderRot e n (2 * s) g i j w).mem = (htRot e (g + s + i) (g + s + j) (n / (2 * s) * i) w).mem := by
  simp only [ladderRot, Nat.mul_div_cancel_left s two_pos]

omit hnum he in
theorem ladderAddSub_mem (s g i : Nat) (w : Work M ℝ) :
    (ladderAddSub e (2 * s) g i w).mem =
      (htAddSub e (g + i) (g + s + i) { w with regs := { w.regs with i := i } }).mem := by
  rw [ladderAddSub, Nat.mul_div_cancel_left s two_pos]

omit hnum he in
/-- The second-half element of block b at offset o. -/
theorem eq_second_half_iff {s b o k : Nat} (ho : o < s) :
    k / (2 * s) = b ∧ s ≤ k % (2 * s) ∧ k % s = o ↔ k = b * (2 * s) + s + o := by
  constructor
  · rintro ⟨rfl, hle, rfl⟩
    obtain ⟨j, rfl, hj⟩ := sub_half (by omega) (Nat.not_lt.2 hle)
    have hsplit := Nat.mod_add_div j (2 * s)
    rw [add_half_div hj, Nat.add_mod_right, ← mod_of_first_half hj, Nat.mul_comm]
    omega
  · rintro rfl
    have hfirst : (b * (2 * s) + o) % (2 * s) = o := by
      rw [Nat.mul_add_mod_self_right, Nat.mod_eq_of_lt (by omega)]
    have hlt : (b * (2 * s) + o) % (2 * s) < s := hfirst.trans_lt ho
    have ho' : o < 2 * s := by omega
    rw [Nat.add_right_comm, add_half_div hlt, add_half_mod hlt, Nat.add_mod_right, ← mod_of_first_half hlt, hfirst,
      Nat.mul_comm b, Nat.mul_add_div (by omega), Nat.div_eq_of_lt ho']
    omega

omit hnum he in
theorem rotatedUpTo_succ {s b t k : Nat} (ht : t < (s - 1) / 2) :
    RotatedUpTo s b (t + 1) k ↔
      RotatedUpTo s b t k ∨ k = b * (2 * s) + s + (s - (t + 1)) ∨ k = b * (2 * s) + s + (t + 1) := by
  rw [← eq_second_half_iff (show s - (t + 1) < s by omega), ← eq_second_half_iff (show t + 1 < s by omega), RotatedUpTo,
    RotatedUpTo]
  omega

omit hnum he in
/-- The offsets that the rotations leave out. -/
theorem fixed_of_not_rotatedUpTo {s b k : Nat} (hs : 0 < s) (hk : k / (2 * s) = b ∧ s ≤ k % (2 * s))
    (h : ¬ RotatedUpTo s b ((s - 1) / 2) k) : k % s = 0 ∨ 2 * (k % s) = s := by
  have hlt := Nat.mod_lt k hs
  rw [RotatedUpTo] at h
  omega

omit hnum he in
/-- The two elements of a pair at mirrored offsets, turned (43_hartley R131). -/
theorem rotated_pair {s b i : Nat} (hpos : 0 < i) (hi : i < s) (D : Nat → ℝ) :
    rotated s D (b * (2 * s) + s + i) = D (b * (2 * s) + s + i) * Real.cos (Real.pi * i / s) +
      D (b * (2 * s) + s + (s - i)) * Real.sin (Real.pi * i / s) ∧
    rotated s D (b * (2 * s) + s + (s - i)) = D (b * (2 * s) + s + i) * Real.sin (Real.pi * i / s) -
      D (b * (2 * s) + s + (s - i)) * Real.cos (Real.pi * i / s) := by
  obtain ⟨-, -, hx⟩ := (eq_second_half_iff (b := b) hi).2 rfl
  obtain ⟨-, -, hy⟩ := (eq_second_half_iff (b := b) (show s - i < s by omega)).2 rfl
  have hmirror : Real.pi * (s - i : Nat) / s = Real.pi - Real.pi * i / s := by
    have hs : (s : ℝ) ≠ 0 := by exact_mod_cast (hpos.trans hi).ne'
    rw [Nat.cast_sub hi.le]
    field_simp
  rw [rotated, rotated, hx, hy, hmirror, Real.cos_pi_sub, Real.sin_pi_sub,
    show b * (2 * s) + s + i + s - 2 * i = b * (2 * s) + s + (s - i) by omega,
    show b * (2 * s) + s + (s - i) + s - 2 * (s - i) = b * (2 * s) + s + i by omega]
  constructor <;> ring

/-- The rotations of a group turn its second half (43_hartley R133). -/
theorem replacedWhere_rotations {s b : Nat} (hs : 0 < s) (hn : 2 * s ∣ n) (hb : b * (2 * s) + 2 * s ≤ n)
    {D C : Nat → ℝ} {w : Work M ℝ} (htab : w.regs.TablesExact n) (hC : ∀ k, k < n → e.realAt w.mem k = C k)
    (hD : ∀ k, k < n → k / (2 * s) = b → C k = D k) :
    let v := forStride 1 (fun i => ladderRot e n (2 * s) (b * (2 * s)) i (s - i)) ((s - 1) / 2) 1 w
    v.regs.TablesExact n ∧
      ReplacedWhere n C (rotated s D) (fun k => k / (2 * s) = b ∧ s ≤ k % (2 * s)) (e.realAt v.mem) := by
  have hloop := forStride_induction (body := fun i => ladderRot e n (2 * s) (b * (2 * s)) i (s - i)) (stride := 1)
    (i := 1) (w := w) (P := fun t (v : Work M ℝ) => v.regs.TablesExact n ∧
      ReplacedWhere n C (rotated s D) (RotatedUpTo s b t) (e.realAt v.mem)) ((s - 1) / 2)
    ⟨htab, fun k hk => ⟨fun hr => ?_, fun _ => hC k hk⟩⟩ fun t v ht ⟨htab, hv⟩ => ⟨htab, ?_⟩
  · refine ⟨hloop.1, fun k hk => ?_⟩
    obtain ⟨hdone, hleft⟩ := hloop.2 k hk
    refine ⟨fun hin => ?_, fun hout => hleft fun hr => hout ⟨hr.1, hr.2.1⟩⟩
    by_cases hr : RotatedUpTo s b ((s - 1) / 2) k
    · exact hdone hr
    · rw [rotated_of_fixed hs D (fixed_of_not_rotatedUpTo hs hin hr), ← hD k hk hin.1]
      exact hleft hr
  · have := Nat.mod_lt k hs
    rw [RotatedUpTo] at hr
    omega
  have hy : b * (2 * s) + s + (s - (t + 1)) < n := by omega
  have hx : b * (2 * s) + s + (t + 1) < n := by omega
  have hidx (o : Nat) (ho : o < s) := (eq_second_half_iff (b := b) ho).2 rfl
  obtain ⟨hxb, hxs, hxo⟩ := hidx (t + 1) (by omega)
  obtain ⟨hyb, hys, hyo⟩ := hidx (s - (t + 1)) (by omega)
  have hold {k : Nat} (hk : k < n) (hkb : k / (2 * s) = b) (hr : ¬ RotatedUpTo s b t k) : e.realAt v.mem k = D k :=
    ((hv k hk).2 hr).trans (hD k hk hkb)
  have hDx := hold hx hxb (by rw [RotatedUpTo]; omega)
  have hDy := hold hy hyb (by rw [RotatedUpTo]; omega)
  obtain ⟨hc, hsn⟩ := htab (n / (2 * s) * (t + 1)) (ladder_entry_lt (by omega) (by omega))
  rw [tableEntry_angle hs hn (by omega)] at hc hsn
  refine (hv.two (p := b * (2 * s) + s + (s - (t + 1))) (q := b * (2 * s) + s + (t + 1)) fun k hk => ?_).congr
    fun k _ => rotatedUpTo_succ ht
  obtain ⟨hrx, hry⟩ := rotated_pair (b := b) (Nat.succ_pos t) (show t + 1 < s by omega) D
  rw [hrx, hry, ← hDx, ← hDy, show 1 + t * 1 = t + 1 by omega, ladderRot_mem]
  exact realAt_htRot hnum he hx hy hk hc hsn

/-- The combinations of a group join its halves (43_hartley R132, R133). -/
theorem replacedWhere_combinations {s b : Nat} (hs : 0 < s) (hb : b * (2 * s) + 2 * s ≤ n) {D R : Nat → ℝ}
    {w : Work M ℝ} (htab : w.regs.TablesExact n) (hw : ∀ k, k < n → e.realAt w.mem k = R k)
    (hR : ∀ k, k < n → k / (2 * s) = b → (k % (2 * s) < s → R k = D k) ∧ (s ≤ k % (2 * s) → R k = rotated s D k)) :
    let v := forStride 1 (ladderAddSub e (2 * s) (b * (2 * s))) s 0 w
    v.regs.TablesExact n ∧ ReplacedWhere n R (leveled s D) (fun k => k / (2 * s) = b) (e.realAt v.mem) := by
  have hloop := forStride_induction (body := ladderAddSub e (2 * s) (b * (2 * s))) (stride := 1) (i := 0) (w := w)
    (P := fun i (v : Work M ℝ) => v.regs.TablesExact n ∧
      ReplacedWhere n R (leveled s D) (fun k => k % s < i ∧ k / (2 * s) = b) (e.realAt v.mem)) s
    ⟨htab, fun k hk => ⟨fun h => absurd h.1 (Nat.not_lt_zero _), fun _ => hw k hk⟩⟩ fun i v hi ⟨htab, hv⟩ => ⟨htab, ?_⟩
  · refine ⟨hloop.1, fun k hk => ?_⟩
    simpa [Nat.mod_lt k hs] using hloop.2 k hk
  rw [Nat.zero_add, Nat.mul_one]
  have hpair (k : Nat) := mem_group_pair (k := k) (i := b) hi
  obtain ⟨hxo, hxb⟩ := (hpair _).2 (.inl rfl)
  obtain ⟨hyo, hyb⟩ := (hpair _).2 (.inr rfl)
  have hfirst : (i + b * (2 * s)) % (2 * s) < s := by
    rw [Nat.add_mul_mod_self_right, Nat.mod_eq_of_lt (by omega)]
    exact hi
  have hsecond : s ≤ (i + b * (2 * s) + s) % (2 * s) := by
    rw [add_half_mod hfirst]
    omega
  have hx : i + b * (2 * s) < n := by omega
  have hy : i + b * (2 * s) + s < n := by omega
  have hDx : e.realAt v.mem (i + b * (2 * s)) = D (i + b * (2 * s)) :=
    ((hv _ hx).2 (by omega)).trans ((hR _ hx hxb).1 hfirst)
  have hDy : e.realAt v.mem (i + b * (2 * s) + s) = rotated s D (i + b * (2 * s) + s) :=
    ((hv _ hy).2 (by omega)).trans ((hR _ hy hyb).2 hsecond)
  refine (hv.two (p := i + b * (2 * s) + s) (q := i + b * (2 * s)) fun k hk => ?_).congr fun k _ => ?_
  · rw [leveled, combined_first hfirst, combined_second hfirst, ← hDx, ← hDy, ladderAddSub_mem,
      show b * (2 * s) + s + i = i + b * (2 * s) + s by omega, Nat.add_comm _ i]
    exact realAt_htAddSub hnum he hx hy hk _
  · have := hpair k
    omega

theorem replacedWhere_group {s b : Nat} (hs : 0 < s) (hn : 2 * s ∣ n) (hb : b * (2 * s) + 2 * s ≤ n) {D : Nat → ℝ}
    {w : Work M ℝ} (htab : w.regs.TablesExact n)
    (hw : ReplacedWhere n D (leveled s D) (fun k => k / (2 * s) < b) (e.realAt w.mem)) :
    (ladderGroup e n (2 * s) (b * (2 * s)) w).regs.TablesExact n ∧
      ReplacedWhere n D (leveled s D) (fun k => k / (2 * s) < b + 1)
        (e.realAt (ladderGroup e n (2 * s) (b * (2 * s)) w).mem) := by
  obtain ⟨htab', hrot⟩ := replacedWhere_rotations hnum he hs hn hb (D := D) (w := ladderGroupEnter (2 * s) w) htab
    (fun _ _ => rfl) fun k hk hkb => (hw k hk).2 (by omega)
  obtain ⟨htab'', hcomb⟩ := replacedWhere_combinations hnum he hs hb (D := D) htab' (fun _ _ => rfl) fun k hk hkb =>
    ⟨fun hfirst => ((hrot k hk).2 (by omega)).trans ((hw k hk).2 (by omega)),
      fun hsecond => (hrot k hk).1 ⟨hkb, hsecond⟩⟩
  rw [ladderGroup]
  simp only [Nat.mul_div_cancel_left s two_pos]
  refine ⟨htab'', fun k hk => ?_⟩
  obtain ⟨hin, hout⟩ := hcomb k hk
  obtain ⟨hdone, hleft⟩ := hw k hk
  have hkept (hkb : k / (2 * s) ≠ b) := (hout hkb).trans ((hrot k hk).2 fun h => hkb h.1)
  refine ⟨fun hlt => ?_, fun hnlt => (hkept (by omega)).trans (hleft (by omega))⟩
  by_cases hkb : k / (2 * s) = b
  · exact hin hkb
  · exact (hkept hkb).trans (hdone (by omega))

/-- A level of the ladder (43_hartley R134). -/
theorem realAt_ladderLevel {s : Nat} (hs : 0 < s) (hn : 2 * s ∣ n) {w : Work M ℝ} (htab : w.regs.TablesExact n) :
    (ladderLevel e n (2 * s) w).regs.TablesExact n ∧ ∀ k, k < n →
      e.realAt (ladderLevel e n (2 * s) w).mem k = leveled s (e.realAt w.mem) k := by
  have hloop := forStride_induction (body := ladderGroup e n (2 * s)) (stride := 2 * s) (i := 0) (w := levelEnter w)
    (P := fun b (v : Work M ℝ) => v.regs.TablesExact n ∧ ReplacedWhere n (e.realAt w.mem) (leveled s (e.realAt w.mem))
      (fun k => k / (2 * s) < b) (e.realAt v.mem)) (n / (2 * s))
    ⟨htab, .start fun _ => Nat.not_lt_zero _⟩ fun b v hb ⟨htab, hv⟩ => ?_
  · exact ⟨hloop.1, fun k hk => (hloop.2 k hk).1 (Nat.div_lt_div_of_lt_of_dvd hn hk)⟩
  · rw [Nat.zero_add]
    exact replacedWhere_group hnum he hs hn (ladder_group_le hb) htab hv

/-- The ladder on a sequence in bit-reversed order computes its transform. -/
theorem realAt_ladder {m : Nat} (hm : n = 2 ^ m) {x : Nat → ℝ} {w : Work M ℝ} (htab : w.regs.TablesExact n)
    (hw : ∀ k, k < n → e.realAt w.mem k = x (rev m k)) {k : Nat} (hk : k < n) :
    e.realAt (ladder e n w).mem k = dht n x k := by
  subst hm
  have hloop := forStride_induction (body := fun t => ladderLevel e (2 ^ m) (2 ^ (t + 1))) (stride := 1) (i := 0)
    (w := ladderEnter (2 ^ m) w) (P := fun t (v : Work M ℝ) => v.regs.TablesExact (2 ^ m) ∧ ∀ k, k < 2 ^ m →
      e.realAt v.mem k = dht (2 ^ t) (subsequence x (m - t) (k / 2 ^ t)) k) m ⟨htab, fun k hk => ?start⟩
    fun t v ht ⟨htab, hv⟩ => ?level
  case start =>
    rw [pow_zero, dht_one, subsequence_single, Nat.div_one]
    exact hw k hk
  case level =>
    have hdvd : 2 * 2 ^ t ∣ 2 ^ m := by
      rw [← pow_succ']
      exact Nat.pow_dvd_pow 2 ht
    rw [Nat.zero_add, Nat.mul_one, pow_succ']
    obtain ⟨htab', hlevel⟩ := realAt_ladderLevel hnum he (Nat.two_pow_pos t) hdvd htab
    refine ⟨htab', fun k hk => (hlevel k hk).trans ?_⟩
    refine leveled_dht (Nat.two_pow_pos t) x (m - (t + 1)) (fun k hk => ?_) hdvd hk
    rw [hv k hk, show m - (t + 1) + 1 = m - t by omega]
  · have hend := hloop.2 k hk
    rw [Nat.sub_self, Nat.div_eq_of_lt hk] at hend
    rw [ladder, Nat.log2_two_pow, hend, subsequence_whole]

end Ladder

/-! ### FHT on a bare sequence -/

theorem tablesExact_hartleyTable {M : Type} {n : Nat} {w : Work M ℝ} (hC : n / 2 ≤ w.regs.htC.length)
    (hS : n / 2 ≤ w.regs.htS.length) : (hartleyTable exactNum n w).regs.TablesExact n := fun t ht => by
  obtain ⟨hc, hs⟩ := hartleyTable_entry exactNum n w ht
  have hangle (d : Nat) : tableAngle exactNum n d t = 2 * Real.pi * t / n := by simp [tableAngle, exactNum]
  rw [hc, hs, hangle, List.getElem?_eq_getElem (ht.trans_le hC), List.getElem?_eq_getElem (ht.trans_le hS)]
  exact ⟨rfl, rfl⟩

theorem dhtSum_eq (len : Nat) (x : Nat → ℝ) (i : Nat) : dhtSum len x i = dht len x i / Real.sqrt len := by
  rw [dhtSum, one_div_mul_eq_div, dht]
  congr 1
  refine Finset.sum_congr rfl fun k _ => ?_
  rw [cas, Nat.cast_mul, ← mul_assoc]

theorem resultOf_hartley (m : Nat) {regs : Regs ℝ} (x : Nat → ℝ × ℝ) (hC : 2 ^ m / 2 ≤ regs.htC.length)
    (hS : 2 ^ m / 2 ≤ regs.htS.length) {k : Nat} (hk : k < 2 ^ m) :
    resultOf exactNum regs hartley (2 ^ m) x k = (dhtSum (2 ^ m) (fun j => (x j).1) k, 0) := by
  have he := sequenceEnv_readsStores exactNum x (2 ^ m)
  set e := sequenceEnv exactNum x with hedef
  set w := permute e (2 ^ m) (copyIn e true (2 ^ m) ⟨x, regs, 0⟩) with hw
  have hcopied (l : Lane) {j : Nat} (hj : j < 2 ^ m) : e.dst w.mem j l = copiedLane e true x (rev m j) l :=
    dst_permute_copyIn he true le_rfl hj l _
  have htab : (hartleyTable exactNum (2 ^ m) w).regs.TablesExact (2 ^ m) :=
    tablesExact_hartleyTable (by rwa [hw, permute_copyIn_htC]) (by rwa [hw, permute_copyIn_htS])
  have hladder := realAt_ladder (e := e) rfl he rfl htab (x := fun j => (x j).1) (fun j hj => by
    rw [Env.realAt, hartleyTable_mem]
    exact hcopied .re hj) hk
  obtain ⟨⟨d, hre⟩, -⟩ := dst_hartleyNorm he le_rfl (ladder e (2 ^ m) (hartleyTable exactNum (2 ^ m) w)) hk
  refine Prod.ext ?_ ?_
  · rw [dhtSum_eq, ← hladder]
    exact hre
  · exact ((storesReal_hartley_tail e w (2 ^ m)).dst_im he le_rfl hk).trans (hcopied .im hk)

/-- Settles O56: the ladder joins transforms of half the length. -/
theorem exactHartleyIsDht : Obligations.ExactHartleyIsDht := by
  intro m regs x hm hC hS
  have heven : naiveDhtAccepts (2 ^ m) = true := by
    obtain ⟨m, rfl⟩ := Nat.exists_eq_add_of_le' hm
    simp [naiveDhtAccepts, pow_succ]
  exact ⟨_, if_pos heven, fun k hk => resultOf_hartley m x hC hS hk⟩

/-! ### FHT is its own inverse -/

theorem cas_mul_cas (N i j k : Nat) :
    cas N (k * j) * cas N (j * i) =
      Real.cos (2 * Real.pi * ((k : ℤ) - i : ℤ) * j / N) + Real.sin (2 * Real.pi * ((k : ℤ) + i : ℤ) * j / N) := by
  have hdiff : 2 * Real.pi * ((k : ℤ) - i : ℤ) * j / N =
      2 * Real.pi * (k * j : Nat) / N - 2 * Real.pi * (j * i : Nat) / N := by
    push_cast
    ring
  have hsum : 2 * Real.pi * ((k : ℤ) + i : ℤ) * j / N =
      2 * Real.pi * (k * j : Nat) / N + 2 * Real.pi * (j * i : Nat) / N := by
    push_cast
    ring
  rw [hdiff, hsum, Real.cos_sub, Real.sin_add, cas, cas]
  ring

/-- The orthogonality of the kernels. -/
theorem sum_cas_mul_cas {N i k : Nat} (hi : i < N) (hk : k < N) :
    ∑ j ∈ Finset.range N, cas N (k * j) * cas N (j * i) = if i = k then (N : ℝ) else 0 := by
  have hN := Nat.zero_lt_of_lt hk
  have hcos := congrArg Complex.re (sum_exp_eq hN ((k : ℤ) - i))
  have hsin := congrArg Complex.im (sum_exp_eq hN ((k : ℤ) + i))
  simp only [Complex.re_sum, Complex.im_sum, Complex.exp_ofReal_mul_I_re, Complex.exp_ofReal_mul_I_im] at hcos hsin
  simp only [cas_mul_cas, Finset.sum_add_distrib, hcos, hsin, dvd_sub_iff_eq hi hk]
  split <;> split <;> simp

theorem dht_dht {N : Nat} (x : Nat → ℝ) {k : Nat} (hk : k < N) : dht N (dht N x) k = N * x k := by
  calc dht N (dht N x) k
      = ∑ j ∈ Finset.range N, ∑ i ∈ Finset.range N, x i * (cas N (k * j) * cas N (j * i)) := by
        refine Finset.sum_congr rfl fun j _ => ?_
        rw [dht, Finset.sum_mul]
        refine Finset.sum_congr rfl fun i _ => ?_
        ring
    _ = ∑ i ∈ Finset.range N, if i = k then x i * N else 0 := by
        rw [Finset.sum_comm]
        refine Finset.sum_congr rfl fun i hi => ?_
        rw [← Finset.mul_sum, sum_cas_mul_cas (Finset.mem_range.1 hi) hk, mul_ite, mul_zero]
    _ = N * x k := by rw [Finset.sum_ite_eq', if_pos (Finset.mem_range.2 hk), mul_comm]

/-- Settles O57: by the orthogonality of the kernels, the two divisions by the root of N making one by N. -/
theorem exactHartleyIsItsOwnInverse : Obligations.ExactHartleyIsItsOwnInverse := by
  intro m regs regs' x _ hC hS hC' hS' k hk
  have hroot : Real.sqrt ((2 ^ m : Nat) : ℝ) * Real.sqrt ((2 ^ m : Nat) : ℝ) = (2 ^ m : Nat) :=
    Real.mul_self_sqrt (Nat.cast_nonneg _)
  have hN : ((2 ^ m : Nat) : ℝ) ≠ 0 := by exact_mod_cast (Nat.two_pow_pos m).ne'
  rw [resultOf_hartley m _ hC' hS' hk, dhtSum_eq]
  have hinner : dht (2 ^ m) (fun j => (resultOf exactNum regs hartley (2 ^ m) x j).1) k =
      dht (2 ^ m) (dht (2 ^ m) fun j => (x j).1) k / Real.sqrt (2 ^ m : Nat) := by
    rw [dht, dht, Finset.sum_div]
    refine Finset.sum_congr rfl fun j hj => ?_
    rw [resultOf_hartley m x hC hS (Finset.mem_range.1 hj), dhtSum_eq, div_mul_eq_mul_div]
  rw [hinner, dht_dht _ hk, div_div, hroot, mul_div_cancel_left₀ _ hN]

end Sys2Proof.Machine
end
